-- ==== Sys2Proof/Word.lean ====
section
/-! DEFINITION. The words the block handles: the 32-bit event word of 30_encoding.md rule R61, the byte of the
sink (20_memory.md rule R49) and the colour triple (00_scope.md rule R13). -/

namespace Sys2Proof

/-- An event word: one 32-bit word of the event interface (R61). -/
abbrev Word := BitVec 32

/-- One byte written to the sink (R49). -/
abbrev Byte := BitVec 8

/-- A colour: three unsigned 8-bit channels, no alpha and no gamma (R13). -/
structure Colour where
  /-- The red channel. -/
  r : Byte
  /-- The green channel. -/
  g : Byte
  /-- The blue channel. -/
  b : Byte
deriving DecidableEq, Repr, Inhabited

/-- `BLACK`, the colour `(0, 0, 0)` (R13). -/
def Colour.black : Colour := ⟨0#8, 0#8, 0#8⟩

end Sys2Proof
end

