-- ==== Sys2Proof/Config.lean ====
section
/-! DEFINITION. The implementation parameters of 00_scope.md section 3 and the values the spec leaves open.
`Config` is what a model takes as its configuration; `Config.hardware` is the one configuration of this hardware:
the numbers the spec fixes (R6, R7, R8, R11, R12), and an opaque glyph ROM and bit order (R9, R50), which nothing in
Lean can evaluate. -/

namespace Sys2Proof

/-- One entry of the glyph ROM: `cells(d)`, a list of cell indices, and `color(d)` (R9). -/
structure Glyph where
  /-- The cells the digit lights. -/
  cells : List Nat
  /-- The one colour of all of them. -/
  color : Colour
deriving DecidableEq, Repr, Inhabited

/-- The glyph ROM: exactly ten entries, one per digit 0..9 (R9, R44). -/
abbrev GlyphTable := Vector Glyph 10

/-- The three conditions of R10 on one glyph of a block with `n` cells: not empty, every index below `n`, no
duplicate. Nothing is asked of the colour. -/
def Glyph.wf (n : Nat) (g : Glyph) : Bool :=
  !g.cells.isEmpty && g.cells.all (fun i => decide (i < n)) && decide g.cells.Nodup

/-- A glyph ROM is well-formed when each of its ten glyphs is (R10). -/
def GlyphTable.wf (n : Nat) (t : GlyphTable) : Bool := t.toList.all (Glyph.wf n)

/-- `BIT_ORDER`: in which order a realization that serializes the bytes itself sends the bits of one byte (R50). -/
inductive BitOrder where
  /-- Most significant bit first. -/
  | msbFirst
  /-- Least significant bit first. -/
  | lsbFirst
deriving DecidableEq, Repr, Inhabited

/-- The parameters of 00_scope.md section 3, with the bit order of 20_memory.md rule R50. -/
structure Config where
  /-- `N_CELLS`, the number of LED cells and of pixel-buffer entries (R6). -/
  nCells : Nat
  /-- `DEBOUNCE_MS`, the least interval in ms between two accepted edges of one button (R7). -/
  debounceMs : Nat
  /-- `RESET_US`, the least idle time in µs after the last byte of a flush (R8). -/
  resetUs : Nat
  /-- `REDRAW_ON_CLAMP`: an accepted edge that leaves the counter unchanged sets the redraw flag too (R11). -/
  redrawOnClamp : Bool
  /-- `FIRST_EDGE_FREE`: the first edge after reset is accepted whatever the time (R12). The events of this
  hardware do not read it, since it has no bit that records a first edge (R80); Machine/FirstEdgeFree.lean holds
  the machine that does. -/
  firstEdgeFree : Bool
  /-- `BIT_ORDER` (R50). No rule reads it. -/
  bitOrder : BitOrder
  /-- `GLYPH_ROM` (R9). -/
  rom : GlyphTable
deriving DecidableEq, Repr

/-- A well-formed glyph ROM for 25 cells: a table with the proof of R10. The two default values only show that there
is such a table (the declaration of an opaque one needs that); they are nowhere used. -/
structure OpenGlyphRom where
  /-- The ten glyphs. -/
  table : GlyphTable := Vector.replicate 10 ⟨[0], Colour.black⟩
  /-- They satisfy R10. -/
  wellFormed : GlyphTable.wf 25 table = true := by decide
deriving Inhabited

/-- The hardware's glyph ROM, OPEN in the spec (R9; 92_eei_decisions.md D22): some well-formed table, and nothing more
is known of it. Assumption 1. -/
opaque Config.openGlyphRom : OpenGlyphRom

/-- The bit order on the wire, OPEN in the spec (R50; 92_eei_decisions.md D19). Assumption 2. -/
opaque Config.openBitOrder : BitOrder

/-- The byte that ENC_BYTE writes when `enc_k` selects no cell of the buffer (R105 gives a byte for
`k < 3·N_CELLS` only): a free value of `enc_k`. No event leads there. Assumption 3. -/
opaque Config.strayByte : BitVec 7 → Byte

/-- What ENC_BYTE leaves in `enc_k` at the index 127, whose successor 128 the 7 bits of the register cannot hold (R30 and
R106 state nothing there): a free value of `enc_k`. No event leads there. Assumption 3. -/
opaque Config.strayIndex : BitVec 7 → BitVec 7

/-- `sat_inc` of a counter above 9 (R82 gives it for 0..9 only): a free value of the counter. Assumption 4. -/
opaque Config.strayInc : BitVec 4 → BitVec 4

/-- `sat_dec` of a counter above 9 (R83 gives it for 0..9 only): a free value of the counter. Assumption 4. -/
opaque Config.strayDec : BitVec 4 → BitVec 4

/-- The configuration of this hardware: 25 cells, 500 ms, 100 µs, both Booleans false (R6, R7, R8, R11, R12), and the
two open parameters. -/
def Config.hardware : Config where
  nCells := 25
  debounceMs := 500
  resetUs := 100
  redrawOnClamp := false
  firstEdgeFree := false
  bitOrder := Config.openBitOrder
  rom := Config.openGlyphRom.table

end Sys2Proof
end

