-- ==== Sys2Proof/Syntax.lean ====
section
/-! DEFINITION. The event alphabet: one constructor per row of spec/opcode_table.json (30_encoding.md rule R66). -/

namespace Sys2Proof

/-- An event of the block's event interface (R66), with its operand where it has one (R63, R64, R65). -/
inductive Instr where
  /-- EDGE_A: a falling edge of button A, the increment request (R85). -/
  | edgeA
  /-- EDGE_B: a falling edge of button B, the decrement request (R86). -/
  | edgeB
  /-- EDGE_C: a falling edge of button C, the update-mode request (R87). -/
  | edgeC
  /-- TICK: time advances by `dt` microseconds (R63, R88). -/
  | tick (dt : Nat)
  /-- RENDER: one iteration of the render loop (R98). -/
  | render
  /-- ENC_BYTE: the sink accepts one byte (R106). -/
  | encByte
  /-- LATCH_END: the reset-delay timer releases the encoder (R107). -/
  | latchEnd
  /-- RESET: power-on or external reset, `chOk` the result of acquiring the output channel (R64, R112). -/
  | reset (chOk : Bool)
deriving DecidableEq, Repr

end Sys2Proof
end

