-- ==== Sys2Proof/WellFormed.lean ====
section
/-! DEFINITION. What an event and a configuration must satisfy: the range of TICK's operand (30_encoding.md
rule R63), and the configurations for which the model is defined (00_scope.md rules R6 and R10). -/

namespace Sys2Proof

/-- The operand of a TICK is at most `2^28 - 1` µs (R63); the other operands have no ill-formed value. -/
def Instr.wf : Instr → Bool
  | .edgeA => true
  | .edgeB => true
  | .edgeC => true
  | .tick dt => decide (dt < 2 ^ 28)
  | .render => true
  | .encByte => true
  | .latchEnd => true
  | .reset _ => true

/-- An event that the 32-bit word can hold. -/
abbrev Instr.WellFormed (i : Instr) : Prop := i.wf = true

/-- The configurations the model is defined for: at least one cell (R6), a well-formed glyph ROM (R10), and a frame
whose byte index fits the 7 bits of `enc_k` (R30, R38; Assumption 5). -/
def Config.wf (cfg : Config) : Bool :=
  decide (1 ≤ cfg.nCells) && decide (3 * cfg.nCells ≤ 2 ^ 7) && GlyphTable.wf cfg.nCells cfg.rom

/-- Configuring the block: an ill-formed configuration is refused (R10). -/
def Config.configure? (cfg : Config) : Option Config := if cfg.wf then some cfg else none

end Sys2Proof
end

