-- ==== Sys2Proof/Decode.lean ====
section
/-! DEFINITION. The decoder of 30_encoding.md rule R70, total on 32-bit words, and the encoder from the same table
(rule R66). -/

namespace Sys2Proof

/-- Why a word spells no event. Each reason raises F_ILLEGAL_EVENT (R67, R68, R122). -/
inductive DecodeError where
  /-- The event code is 0x0 or 0x9 to 0xF (R67). -/
  | reservedOp (op : BitVec 4)
  /-- The event code is legal, but a must-be-zero operand bit is set (R68). -/
  | operandBitSet (op : BitVec 4)
deriving DecidableEq, Repr

/-- `op`, bits 31:28 of the word (R61). -/
def opField (w : Word) : BitVec 4 := w.extractLsb' 28 4

/-- `imm`, bits 27:0 of the word (R61). -/
def immField (w : Word) : BitVec 28 := w.extractLsb' 0 28

/-- `imm[27:1]`, the must-be-zero bits of RESET (R64). -/
def immHigh (imm : BitVec 28) : BitVec 27 := imm.extractLsb' 1 27

/-- Decoding an event without operand: every bit of `imm` must be zero (R65, R68). -/
def decodePlain (op : BitVec 4) (imm : BitVec 28) (i : Instr) : Except DecodeError Instr :=
  if imm = 0#28 then .ok i else .error (.operandBitSet op)

/-- Decoding RESET: `imm[27:1]` must be zero and `imm[0]` is CH_OK (R64, R68). -/
def decodeReset (op : BitVec 4) (imm : BitVec 28) : Except DecodeError Instr :=
  if immHigh imm = 0#27 then .ok (.reset (imm.getLsbD 0)) else .error (.operandBitSet op)

/-- Decoding once the two fields are taken apart: the event is selected by `op` alone (R62, R70). -/
def decodeFields (op : BitVec 4) (imm : BitVec 28) : Except DecodeError Instr :=
  match op.toNat with
  | 0x1 => decodePlain op imm .edgeA
  | 0x2 => decodePlain op imm .edgeB
  | 0x3 => decodePlain op imm .edgeC
  | 0x4 => .ok (.tick imm.toNat)
  | 0x5 => decodePlain op imm .render
  | 0x6 => decodePlain op imm .encByte
  | 0x7 => decodePlain op imm .latchEnd
  | 0x8 => decodeReset op imm
  | _ => .error (.reservedOp op)

/-- `decode(w)` of R70: one event with its operand, or the verdict illegal with its reason. -/
def decode (w : Word) : Except DecodeError Instr := decodeFields (opField w) (immField w)

/-- The event code of R66. -/
def opcode : Instr → BitVec 4
  | .edgeA => 0x1#4
  | .edgeB => 0x2#4
  | .edgeC => 0x3#4
  | .tick _ => 0x4#4
  | .render => 0x5#4
  | .encByte => 0x6#4
  | .latchEnd => 0x7#4
  | .reset _ => 0x8#4

/-- The operand field of R63, R64 and R65. -/
def operand : Instr → BitVec 28
  | .edgeA => 0#28
  | .edgeB => 0#28
  | .edgeC => 0#28
  | .tick dt => BitVec.ofNat 28 dt
  | .render => 0#28
  | .encByte => 0#28
  | .latchEnd => 0#28
  | .reset chOk => if chOk then 1#28 else 0#28

/-- The event's word: `op` in bits 31:28, `imm` in bits 27:0 (R61). A TICK operand that is not well-formed, which no word
holds (R63), is taken modulo 2^28 (DESIGN CHOICE, Assumption 20). -/
def encode (i : Instr) : Word := opcode i ++ operand i

/-- The mnemonic of R66. -/
def mnemonic : Instr → String
  | .edgeA => "EDGE_A"
  | .edgeB => "EDGE_B"
  | .edgeC => "EDGE_C"
  | .tick _ => "TICK"
  | .render => "RENDER"
  | .encByte => "ENC_BYTE"
  | .latchEnd => "LATCH_END"
  | .reset _ => "RESET"

/-- One row of the opcode map of R66. -/
structure OpcodeRow where
  /-- The mnemonic. -/
  name : String
  /-- The bits of the word that `mask` selects. -/
  pattern : Word
  /-- Which bits of the word the row fixes. -/
  mask : Word
deriving DecidableEq, Repr

/-- The opcode map of R66, its eight rows that are not reserved. -/
def opcodeTable : List OpcodeRow :=
  [⟨"EDGE_A", 0x10000000#32, 0xFFFFFFFF#32⟩,
   ⟨"EDGE_B", 0x20000000#32, 0xFFFFFFFF#32⟩,
   ⟨"EDGE_C", 0x30000000#32, 0xFFFFFFFF#32⟩,
   ⟨"TICK", 0x40000000#32, 0xF0000000#32⟩,
   ⟨"RENDER", 0x50000000#32, 0xFFFFFFFF#32⟩,
   ⟨"ENC_BYTE", 0x60000000#32, 0xFFFFFFFF#32⟩,
   ⟨"LATCH_END", 0x70000000#32, 0xFFFFFFFF#32⟩,
   ⟨"RESET", 0x80000000#32, 0xFFFFFFFE#32⟩]

/-- The word matches the row: `(w & mask) = match` (R66). -/
def OpcodeRow.matchesWord (row : OpcodeRow) (w : Word) : Bool := decide (w &&& row.mask = row.pattern)

/-- The word of a table row's bits, every bit from `nbits` on taken as 0. -/
def tableWord (nbits w : Nat) : Word := BitVec.ofNat 32 (w % 2 ^ nbits)

/-- The event the decoder reads from a word of the opcode table. -/
def decodeTableWord (nbits w : Nat) : Option Instr :=
  match decode (tableWord nbits w) with
  | .ok i => some i
  | .error _ => none

end Sys2Proof
end

