-- ==== Sys2Proof/Machine/State.lean ====
section
/-! DEFINITION. The block's state (10_state.md), the effect an event has (00_scope.md rule R17), the reasons a step could
stop, and the state after reset (70_reset_and_hazards.md rule R135). -/

namespace Sys2Proof.Machine

/-- `mode`, the 2-bit operating mode (R21). Its encoding 3 is never written and has no value here. -/
inductive Mode where
  /-- RUN (0): normal operation. -/
  | run
  /-- UPDATE (1): entered by EDGE_C, left by RESET only. -/
  | update
  /-- FAULT (2): entered by a fault, left by RESET only. -/
  | fault
deriving DecidableEq, Repr

/-- `enc_phase`, the 2-bit phase of the LED encoder (R29). Its encoding 3 is never written and has no value here. -/
inductive EncPhase where
  /-- IDLE (0): no frame in progress. -/
  | idle
  /-- SEND (1): bytes of a frame remain to be written. -/
  | send
  /-- LATCH (2): the last byte is written and the reset-delay window runs. -/
  | latch
deriving DecidableEq, Repr

/-- The three faults of R116. They are values of the register `fault_code`, not stops of the machine: a faulted block
still takes TICK and RESET (R118). -/
inductive FaultKind where
  /-- F_INIT_NO_CHANNEL: RESET with CH_OK = 0 (R119). -/
  | initNoChannel
  /-- F_DIGIT_RANGE: RENDER draws with a counter above 9 (R120). -/
  | digitRange
  /-- F_ILLEGAL_EVENT: a word that decodes to no event (R122). -/
  | illegalEvent
deriving DecidableEq, Repr

/-- The architectural state: the registers of R20's table (R21 to R32), the two observation-only fields (R34, R35), and
the words the environment has delivered that no step has consumed (R17, R53). `update_req` is derived from `mode` (R33;
Machine/Boundary.lean). -/
structure State where
  /-- `mode` (R21). -/
  mode : Mode
  /-- `clock_us`, microseconds since the last reset, an unbounded natural (R22, R38). -/
  clockUs : Nat
  /-- `counter`, the displayed digit, 4 bits (R23). -/
  counter : BitVec 4
  /-- `redraw_flag`, 1 bit (R24). -/
  redrawFlag : Bool
  /-- `boot_pending`, 1 bit (R25). -/
  bootPending : Bool
  /-- `last_a_ms`, the time of button A's last accepted edge (R26). -/
  lastAMs : Nat
  /-- `last_b_ms`, the same for button B (R27). -/
  lastBMs : Nat
  /-- `buf`, the pixel buffer, entry `i` at position `i` (R28). -/
  buf : List Colour
  /-- `enc_phase` (R29). -/
  encPhase : EncPhase
  /-- `enc_k`, the index in the frame of the next byte, 7 bits (R30). -/
  encK : BitVec 7
  /-- `latch_start_us`, when the reset-delay timer started (R31). -/
  latchStartUs : Nat
  /-- `fault_code`, 2 bits, read at the output port (R32). -/
  faultCode : BitVec 2
  /-- `out`, every byte written to the sink, the oldest first (R34). Observation only. -/
  out : List Byte
  /-- `frames`, how many frames RENDER has started (R35). Observation only. -/
  frames : Nat
  /-- The words the environment has delivered and no step has consumed, in the one total order of R53, the next
  first. The model's own field. Assumption 6. -/
  input : List Word
deriving DecidableEq, Repr

/-- What applying an event to a state gives (R17). -/
inductive Effect where
  /-- `next s'`: the event is taken. -/
  | took (s : State)
  /-- `hold`: the event has no step here, changes nothing and is not consumed. -/
  | hold
  /-- `fault F`: the event raises F. The writes it made are not part of the result (R117). -/
  | raised (f : FaultKind)
deriving DecidableEq, Repr

/-- The reasons a step could stop the machine with a fault: none. Every fault of the spec is an entry into the mode
FAULT, from which the machine goes on (R117, R118), and no event stops it. -/
inductive Fault
deriving DecidableEq, Repr

/-- The reasons a step could be refused. -/
inductive Refusal where
  /-- An event without a meaning. Raised by an arm of `exec` only, and no arm raises it. Safe. -/
  | notModelled (mnemonic : String)
deriving DecidableEq, Repr

/-- The state after RESET 1 at power-on (R114, R135): every register at its reset value, `out` empty, `frames` 0, no word
delivered yet. -/
def State.reset : State where
  mode := .run
  clockUs := 0
  counter := 0#4
  redrawFlag := false
  bootPending := true
  lastAMs := 0
  lastBMs := 0
  buf := List.replicate Config.hardware.nCells Colour.black
  encPhase := .idle
  encK := 0#7
  latchStartUs := 0
  faultCode := 0#2
  out := []
  frames := 0
  input := []

end Sys2Proof.Machine
end

