-- ==== Sys2Proof/Machine/Ops.lean ====
section
/-! DEFINITION. The named operations on the state that the events share: consuming a word, entering FAULT
(60_exceptions.md rule R117), the sink (20_memory.md rule R49), the pixel buffer (rule R47), the register updates of the
event rules, and fetching the next word. -/

namespace Sys2Proof.Machine

/-- The register value of a fault (R116). -/
def FaultKind.code : FaultKind → BitVec 2
  | .initNoChannel => 1#2
  | .digitRange => 2#2
  | .illegalEvent => 3#2

/-- The word at the head of the input is consumed: its event has been taken (R17). -/
def State.consume (s : State) : State := { s with input := s.input.tail }

/-- Fault entry: the mode becomes FAULT, and `fault_code` keeps an earlier code (R117). Nothing else is written: no
state is saved, no handler runs. -/
def State.enterFault (f : FaultKind) (s : State) : State :=
  { s with mode := .fault, faultCode := if s.faultCode = 0#2 then f.code else s.faultCode }

/-- `SinkWrite(b)`: append one byte to the sink's stream (R49). -/
def State.sinkWrite (b : Byte) (s : State) : State := { s with out := s.out ++ [b] }

/-- Time advances by `dt` µs (R88). -/
def State.advanceClock (dt : Nat) (s : State) : State := { s with clockUs := s.clockUs + dt }

/-- An accepted edge of A: its time and the new counter (R85). -/
def State.acceptA (now : Nat) (v : BitVec 4) (s : State) : State := { s with lastAMs := now, counter := v }

/-- An accepted edge of B: its time and the new counter (R86). -/
def State.acceptB (now : Nat) (v : BitVec 4) (s : State) : State := { s with lastBMs := now, counter := v }

/-- The update-mode request is granted: `mode <- UPDATE` (R87). -/
def State.enterUpdate (s : State) : State := { s with mode := .update }

/-- RENDER fills the buffer and starts a flush (R98). -/
def State.startFrame (pixels : List Colour) (s : State) : State :=
  { s with buf := pixels, encK := 0#7, encPhase := .send, frames := s.frames + 1 }

/-- `k + 1` (R106); at 127, whose successor the 7 bits of `enc_k` cannot hold and for which the spec states no value, a
free one. DESIGN CHOICE, Assumption 3. -/
def nextIndex (k : BitVec 7) : BitVec 7 := if k = 127#7 then Config.strayIndex k else k + 1#7

/-- The encoder moves on to the next byte of the frame (R106). At index 127, which no event reaches, the new index is a
free value (Assumption 3). -/
def State.nextByte (s : State) : State := { s with encK := nextIndex s.encK }

/-- After the last byte the reset-delay timer starts (R106). -/
def State.startLatch (s : State) : State := { s with encPhase := .latch, latchStartUs := s.clockUs }

/-- The reset-delay timer releases the encoder (R107). -/
def State.releaseLatch (s : State) : State := { s with encPhase := .idle }

/-- `PixelBuffer.clear()` of a buffer of `n` cells (R47, R96). -/
def bufClear (n : Nat) : List Colour := List.replicate n Colour.black

/-- `PixelBuffer.set(index, color)` (R47). -/
def bufSet (i : Nat) (c : Colour) (buf : List Colour) : List Colour := buf.set i c

/-- Every register takes the value RESET gives it; `out`, `frames` and the words still to come stay (R112). -/
def State.resetRegisters (cfg : Config) (s : State) : State :=
  { s with
    mode := .run
    faultCode := 0#2
    clockUs := 0
    counter := 0#4
    redrawFlag := false
    bootPending := true
    lastAMs := 0
    lastBMs := 0
    buf := bufClear cfg.nCells
    encPhase := .idle
    encK := 0#7
    latchStartUs := 0 }

/-- The state an effect leaves behind, before the word is consumed: a hold leaves it as it was, and a raise keeps no
write of the event (R17, R117). -/
def Effect.stateAfter (s : State) : Effect → State
  | .took s' => s'
  | .hold => s
  | .raised f => s.enterFault f

/-- Whether the event is held (R17). -/
def Effect.isHold : Effect → Bool
  | .hold => true
  | _ => false

/-- An effect as an outcome of the machine: a taken event and a raised fault consume their word, a held event leaves the
whole state, its word still at the head of the input (R17). -/
def settle (s : State) : Effect → Host.Outcome State Fault Refusal
  | .took s' => .next s'.consume
  | .hold => .next s
  | .raised f => .next (s.enterFault f).consume

/-- The next word the environment has delivered, if there is one. -/
def State.fetch (s : State) : Option Word := s.input.head?

/-- A word that spells no event raises F_ILLEGAL_EVENT, in any mode (R70, R122). -/
def execIllegal (s : State) : Host.Outcome State Fault Refusal := settle s (.raised .illegalEvent)

/-- The environment delivers a word after those it has delivered already (R53). -/
def State.deliver (w : Word) (s : State) : State := { s with input := s.input ++ [w] }

/-- The environment schedules a word ahead of those still pending: any agent may be scheduled next (R18), as when another
agent's step lifts a hold (R17). -/
def State.deliverFirst (w : Word) (s : State) : State := { s with input := w :: s.input }

end Sys2Proof.Machine
end

