-- ==== Sys2Proof/Machine/Flags.lean ====
section
/-! DEFINITION. The block's one condition flag `redraw_flag` and its companion `boot_pending`: when an edge sets the flag
(40_debounce_counter.md rule R84), and the take-and-reset of RENDER (20_memory.md rule R55). -/

namespace Sys2Proof.Machine

/-- An accepted edge asks for a redraw iff the counter changed or REDRAW_ON_CLAMP holds (R84). -/
def redrawRequested (cfg : Config) (old new : BitVec 4) : Bool := (new != old) || cfg.redrawOnClamp

/-- Set `redraw_flag` if a redraw is asked for; else leave it as it was (R84). -/
def State.requestRedraw (ask : Bool) (s : State) : State := { s with redrawFlag := s.redrawFlag || ask }

/-- What RENDER decides on: a redraw request or the boot draw (R98, R99). -/
def State.drawPending (s : State) : Bool := s.redrawFlag || s.bootPending

/-- The reset half of the take-and-reset: both bits become 0 (R55, R98). -/
def State.clearPending (s : State) : State := { s with redrawFlag := false, bootPending := false }

end Sys2Proof.Machine
end

