-- ==== Sys2Proof/Machine/Operands.lean ====
section
/-! DEFINITION. The values the events compute: millisecond time and the debounce test (40_debounce_counter.md rules R77,
R78), the saturating functions (R82, R83), the glyph lookup and the pixel multiplexer (41_glyph_render.md rules R94, R95),
the byte selection (42_led_encoder.md rule R105) and the reset-delay test (rule R107). -/

namespace Sys2Proof.Machine

/-- `now_ms`, the whole milliseconds since reset, rounded down (R77). -/
def State.nowMs (s : State) : Nat := s.clockUs / 1000

/-- The debounce test `(now_ms - last_X) >= DEBOUNCE_MS` (R78). Assumption 7. -/
def intervalPassed (cfg : Config) (now last : Nat) : Bool := decide (now - last ≥ cfg.debounceMs)

/-- `sat_inc` (R82); above 9, where the spec gives no value, a free one. -/
def satInc (v : BitVec 4) : BitVec 4 :=
  if v ≤ 9#4 then (if v < 9#4 then v + 1#4 else v) else Config.strayInc v

/-- `sat_dec` (R83); above 9, where the spec gives no value, a free one. -/
def satDec (v : BitVec 4) : BitVec 4 :=
  if v ≤ 9#4 then (if v > 0#4 then v - 1#4 else v) else Config.strayDec v

/-- `ROM(d)` for a digit `d` of 0..9 (R45). -/
def romRead (cfg : Config) (d : Fin 10) : Glyph := cfg.rom[d]

/-- The digit a counter value stands for, if it is in 0..9 (R14, R94). -/
def digitOf (v : BitVec 4) : Option (Fin 10) := if h : v.toNat < 10 then some ⟨v.toNat, h⟩ else none

/-- The colour of cell `i` when the glyph is drawn: its colour in its cells, BLACK elsewhere (R95). -/
def glyphPixel (g : Glyph) (i : Nat) : Colour := if i ∈ g.cells then g.color else Colour.black

/-- The glyph's pixels for all `n` cells, in index order (R95, R98). -/
def glyphPixels (n : Nat) (g : Glyph) : List Colour := (List.range n).map (glyphPixel g)

/-- `pix(d, i)`, the colour of cell `i` when digit `d` is drawn (R95). -/
def pix (cfg : Config) (d : Fin 10) (i : Nat) : Colour := glyphPixel (romRead cfg d) i

/-- The buffer of a drawn digit: `pix(d, i)` for every cell (R98). -/
def frameBuffer (cfg : Config) (d : Fin 10) : List Colour := glyphPixels cfg.nCells (romRead cfg d)

/-- The source's own drawing sequence: clear, then one set per cell of the glyph, in list order (R96). -/
def drawSequence (cfg : Config) (d : Fin 10) : List Colour :=
  (romRead cfg d).cells.foldl (fun buf i => bufSet i (romRead cfg d).color buf) (bufClear cfg.nCells)

/-- The channel of a colour that goes out as byte `j` of its cell: green, red, blue (R48, R105). -/
def channelGRB (c : Colour) (j : Nat) : Byte :=
  match j with
  | 0 => c.g
  | 1 => c.r
  | _ => c.b

/-- `enc_byte(buf, k)`: byte `k mod 3` of cell `k div 3` (R105); where no such cell is, a free value. -/
def encByteAt (buf : List Colour) (k : BitVec 7) : Byte :=
  match buf[k.toNat / 3]? with
  | some c => channelGRB c (k.toNat % 3)
  | none => Config.strayByte k

/-- `k = 3·N_CELLS - 1`: the frame's last byte (R106). -/
def isLastByte (cfg : Config) (k : BitVec 7) : Bool := decide (k.toNat = 3 * cfg.nCells - 1)

/-- The reset-delay window is over: not `clock_us - latch_start_us < RESET_US` (R107). Assumption 7. -/
def State.latchElapsed (cfg : Config) (s : State) : Bool := !decide (s.clockUs - s.latchStartUs < cfg.resetUs)

/-- The three bytes of one cell in wire order (R48). -/
def wireBytes (c : Colour) : List Byte := [c.g, c.r, c.b]

/-- The bytes of a whole buffer in wire order, cells ascending (R48). -/
def serialize (buf : List Colour) : List Byte := buf.flatMap wireBytes

/-- `frame(d)`, the bytes of one flush of digit `d` (R109). -/
def frame (cfg : Config) (d : Fin 10) : List Byte := serialize (frameBuffer cfg d)

end Sys2Proof.Machine
end

