-- ==== Sys2Proof/Machine/DebounceCounter.lean ====
section
/-! DEFINITION. The debounce timer and counter state machine: EDGE_A, EDGE_B, EDGE_C and TICK (40_debounce_counter.md rules
R85 to R88). -/

namespace Sys2Proof.Machine

/-- What an accepted EDGE_A writes: the timestamp, the incremented counter, and the flag where R84 asks for it (R85). -/
def State.acceptedA (cfg : Config) (s : State) : State :=
  (s.acceptA s.nowMs (satInc s.counter)).requestRedraw (redrawRequested cfg s.counter (satInc s.counter))

/-- What an accepted EDGE_B writes (R86). -/
def State.acceptedB (cfg : Config) (s : State) : State :=
  (s.acceptB s.nowMs (satDec s.counter)).requestRedraw (redrawRequested cfg s.counter (satDec s.counter))

/-- An EDGE_A applied here is accepted: RUN, and its interval has passed (R78, R89). -/
def State.acceptsA (cfg : Config) (s : State) : Bool :=
  decide (s.mode = .run) && intervalPassed cfg s.nowMs s.lastAMs

/-- An EDGE_B applied here is accepted (R78, R89). -/
def State.acceptsB (cfg : Config) (s : State) : Bool :=
  decide (s.mode = .run) && intervalPassed cfg s.nowMs s.lastBMs

/-- EDGE_A (R85): outside RUN, or rejected by the debounce gate, it is taken and changes nothing. -/
def applyEdgeA (cfg : Config) (s : State) : Effect :=
  if s.acceptsA cfg then .took (s.acceptedA cfg) else .took s

/-- EDGE_B (R86). -/
def applyEdgeB (cfg : Config) (s : State) : Effect :=
  if s.acceptsB cfg then .took (s.acceptedB cfg) else .took s

/-- EDGE_C (R87): no debounce; outside RUN it is taken and changes nothing (R89). -/
def applyEdgeC (s : State) : Effect :=
  if s.mode = .run then .took s.enterUpdate else .took s

/-- TICK (R88): taken in every mode. -/
def applyTick (dt : Nat) (s : State) : Effect := .took (s.advanceClock dt)

/-- EDGE_A on this hardware. -/
def execEdgeA (s : State) : Host.Outcome State Fault Refusal := settle s (applyEdgeA Config.hardware s)

/-- EDGE_B on this hardware. -/
def execEdgeB (s : State) : Host.Outcome State Fault Refusal := settle s (applyEdgeB Config.hardware s)

/-- EDGE_C on this hardware. -/
def execEdgeC (s : State) : Host.Outcome State Fault Refusal := settle s (applyEdgeC s)

/-- TICK on this hardware. -/
def execTick (dt : Nat) (s : State) : Host.Outcome State Fault Refusal := settle s (applyTick dt s)

end Sys2Proof.Machine
end

