-- ==== Sys2Proof/Machine/GlyphRender.lean ====
section
/-! DEFINITION. The render loop: the glyph lookup with its range check and RENDER (41_glyph_render.md rules R94 and R98). -/

namespace Sys2Proof.Machine

/-- `glyph_for(d)`: the glyph of a counter value of 0..9, or F_DIGIT_RANGE (R94). -/
def glyphFor (cfg : Config) (v : BitVec 4) : Except FaultKind Glyph :=
  match digitOf v with
  | some d => .ok (romRead cfg d)
  | none => .error .digitRange

/-- RENDER holds outside RUN and while a frame is being sent or latched (R101). -/
def State.renderHeld (s : State) : Bool := decide (s.mode ≠ .run) || decide (s.encPhase ≠ .idle)

/-- A RENDER applied here starts a frame of digit `d` (R98). -/
abbrev State.draws (s : State) (d : Fin 10) : Prop :=
  s.renderHeld = false ∧ s.drawPending = true ∧ digitOf s.counter = some d

/-- RENDER (R98): take and clear the two pending bits; with nothing pending the iteration is idle (R100), else draw the
counter's digit and start the flush, or raise F_DIGIT_RANGE with every write discarded (R94, R117). -/
def applyRender (cfg : Config) (s : State) : Effect :=
  if s.renderHeld then .hold
  else if s.drawPending then
    match glyphFor cfg s.counter with
    | .ok g => .took (s.clearPending.startFrame (glyphPixels cfg.nCells g))
    | .error f => .raised f
  else .took s.clearPending

/-- RENDER on this hardware. -/
def execRender (s : State) : Host.Outcome State Fault Refusal := settle s (applyRender Config.hardware s)

end Sys2Proof.Machine
end

