-- ==== Sys2Proof/Machine/LedEncoder.lean ====
section
/-! DEFINITION. The LED encoder: ENC_BYTE and LATCH_END (42_led_encoder.md rules R106 and R107). -/

namespace Sys2Proof.Machine

/-- ENC_BYTE holds outside RUN and outside SEND (R106). -/
def State.encByteHeld (s : State) : Bool := decide (s.mode ≠ .run) || decide (s.encPhase ≠ .send)

/-- LATCH_END holds outside RUN, outside LATCH, and until the reset-delay window is over (R107). -/
def State.latchEndHeld (cfg : Config) (s : State) : Bool :=
  decide (s.mode ≠ .run) || decide (s.encPhase ≠ .latch) || !s.latchElapsed cfg

/-- The register update of ENC_BYTE after the byte is written: the next index, or the start of the latch window after the
last byte (R106). -/
def State.afterByte (cfg : Config) (s : State) : State :=
  if isLastByte cfg s.encK then s.startLatch else s.nextByte

/-- ENC_BYTE (R106). -/
def applyEncByte (cfg : Config) (s : State) : Effect :=
  if s.encByteHeld then .hold
  else .took ((s.sinkWrite (encByteAt s.buf s.encK)).afterByte cfg)

/-- LATCH_END (R107). -/
def applyLatchEnd (cfg : Config) (s : State) : Effect :=
  if s.latchEndHeld cfg then .hold else .took s.releaseLatch

/-- ENC_BYTE on this hardware. -/
def execEncByte (s : State) : Host.Outcome State Fault Refusal := settle s (applyEncByte Config.hardware s)

/-- LATCH_END on this hardware. -/
def execLatchEnd (s : State) : Host.Outcome State Fault Refusal := settle s (applyLatchEnd Config.hardware s)

end Sys2Proof.Machine
end

