-- ==== Sys2Proof/Machine/System.lean ====
section
/-! DEFINITION. The system event RESET (43_system.md rules R112 and R113). -/

namespace Sys2Proof.Machine

/-- RESET (R112), taken in every mode: all registers take their reset values; without the channel the block then enters
FAULT with F_INIT_NO_CHANNEL, from the reset state just built (R113, R117). -/
def applyReset (cfg : Config) (chOk : Bool) (s : State) : Effect :=
  if chOk then .took (s.resetRegisters cfg)
  else .took ((s.resetRegisters cfg).enterFault .initNoChannel)

/-- RESET on this hardware. -/
def execReset (chOk : Bool) (s : State) : Host.Outcome State Fault Refusal := settle s (applyReset Config.hardware chOk s)

end Sys2Proof.Machine
end

