-- ==== Sys2Proof/Machine/Dispatch.lean ====
section
/-! DEFINITION. One arm per event of the opcode map (30_encoding.md rule R66). -/

namespace Sys2Proof.Machine

def exec (i : Instr) (s : State) : Host.Outcome State Fault Refusal :=
  match i with
  | .edgeA => Sys2Proof.Machine.execEdgeA s
  | .edgeB => Sys2Proof.Machine.execEdgeB s
  | .edgeC => Sys2Proof.Machine.execEdgeC s
  | .tick dt => Sys2Proof.Machine.execTick dt s
  | .render => Sys2Proof.Machine.execRender s
  | .encByte => Sys2Proof.Machine.execEncByte s
  | .latchEnd => Sys2Proof.Machine.execLatchEnd s
  | .reset chOk => Sys2Proof.Machine.execReset chOk s

end Sys2Proof.Machine
end

