-- ==== Sys2Proof/Machine/Step.lean ====
section
/-! DEFINITION. One step of the block: the next word the environment has delivered is decoded and applied (00_scope.md
rules R5 and R17, 30_encoding.md rule R70). -/

namespace Sys2Proof.Machine

/-- One step. With no word delivered there is no event, and nothing changes (Assumption 8); an illegal word raises
F_ILLEGAL_EVENT in any mode (R122); a legal one is applied. -/
def step (s : State) : Host.Outcome State Fault Refusal :=
  match s.fetch with
  | none => .next s
  | some w =>
    match decode w with
    | .ok i => exec i s
    | .error _ => execIllegal s

/-- The state with the given word delivered as the next one, so that the next step applies it (Assumption 9). -/
def State.withFetchWord (s : State) (nbits w : Nat) : State := s.deliverFirst (tableWord nbits w)

end Sys2Proof.Machine
end

