-- ==== Sys2Proof/Machine/Run.lean ====
section
/-! DEFINITION. Applying events under any configuration, and runs: the word lists of 95_test_vectors.md, which stop where
a word holds, and the free interleaving of 00_scope.md rule R18, in which a held event stays pending and another agent's
event is delivered. -/

namespace Sys2Proof.Machine

/-- Applying an event to a state (R17), for any configuration. -/
def apply (cfg : Config) (i : Instr) (s : State) : Effect :=
  match i with
  | .edgeA => applyEdgeA cfg s
  | .edgeB => applyEdgeB cfg s
  | .edgeC => applyEdgeC s
  | .tick dt => applyTick dt s
  | .render => applyRender cfg s
  | .encByte => applyEncByte cfg s
  | .latchEnd => applyLatchEnd cfg s
  | .reset chOk => applyReset cfg chOk s

/-- Applying a word: the event it spells, or F_ILLEGAL_EVENT (R70, R122). -/
def applyWord (cfg : Config) (w : Word) (s : State) : Effect :=
  match decode w with
  | .ok i => apply cfg i s
  | .error _ => .raised .illegalEvent

/-- The state after a word is delivered: a held word leaves it as it was (R143). -/
def afterWord (cfg : Config) (w : Word) (s : State) : State := (applyWord cfg w s).stateAfter s

/-- Running a word list: each word in turn, up to the first that holds. The second component is the words left, the stuck
one first (95_test_vectors.md, conventions). -/
def runWords (cfg : Config) : List Word → State → State × List Word
  | [], s => (s, [])
  | w :: ws, s =>
    if (applyWord cfg w s).isHold then (s, w :: ws) else runWords cfg ws (afterWord cfg w s)

/-- Delivering words one after the other, in the order the environment chooses; one that holds does nothing and may be
delivered again later (R17, R18, R143). -/
def deliverAll (cfg : Config) : List Word → State → State
  | [], s => s
  | w :: ws, s => deliverAll cfg ws (afterWord cfg w s)

/-- The states of an endless run, in which the environment delivers the word `env n` at time `n` (R18, R141). -/
def trace (cfg : Config) (env : Nat → Word) (s : State) : Nat → State
  | 0 => s
  | n + 1 => afterWord cfg (env n) (trace cfg env s n)

/-- The word spells this event. -/
def spells (w : Word) (i : Instr) : Bool :=
  match decode w with
  | .ok j => decide (j = i)
  | .error _ => false

/-- The word spells a RESET. -/
def spellsReset (w : Word) : Bool := spells w (.reset true) || spells w (.reset false)

end Sys2Proof.Machine
end

