-- ==== Sys2Proof/Machine/FirstEdgeFree.lean ====
section
/-! DEFINITION. The alternative of 40_debounce_counter.md rule R80: one bit `seen_X` per tracked button, with which the
first edge after reset is accepted whatever the time when FIRST_EDGE_FREE is true (00_scope.md rule R12). This hardware
has FIRST_EDGE_FREE false and does not have the bits, so they are not in State. -/

namespace Sys2Proof.Machine

/-- The bits `seen_A` and `seen_B`, both 0 after reset (R80). -/
structure SeenBits where
  /-- An edge of A has been accepted since reset. -/
  a : Bool
  /-- An edge of B has been accepted since reset. -/
  b : Bool
deriving DecidableEq, Repr

/-- The reset value of the two bits (R80). -/
def SeenBits.reset : SeenBits := ⟨false, false⟩

/-- `s.seen_X = 0 ∨ (now_ms - s.last_X) >= DEBOUNCE_MS`, with the first alternative only where FIRST_EDGE_FREE is true
(R12, R80). -/
def acceptsFree (cfg : Config) (seen : Bool) (now last : Nat) : Bool :=
  (cfg.firstEdgeFree && !seen) || intervalPassed cfg now last

/-- An event applied to the block with the two bits: EDGE_A and EDGE_B use the test of R80 and set their bit on
acceptance, RESET clears both, every other event is as it stands. -/
def afterEventFree (cfg : Config) (i : Instr) (s : State) (seen : SeenBits) : State × SeenBits :=
  match i with
  | .edgeA =>
    if decide (s.mode = .run) && acceptsFree cfg seen.a s.nowMs s.lastAMs then (s.acceptedA cfg, { seen with a := true })
    else (s, seen)
  | .edgeB =>
    if decide (s.mode = .run) && acceptsFree cfg seen.b s.nowMs s.lastBMs then (s.acceptedB cfg, { seen with b := true })
    else (s, seen)
  | .reset chOk => ((applyReset cfg chOk s).stateAfter s, SeenBits.reset)
  | .edgeC => ((applyEdgeC s).stateAfter s, seen)
  | .tick dt => ((applyTick dt s).stateAfter s, seen)
  | .render => ((applyRender cfg s).stateAfter s, seen)
  | .encByte => ((applyEncByte cfg s).stateAfter s, seen)
  | .latchEnd => ((applyLatchEnd cfg s).stateAfter s, seen)

end Sys2Proof.Machine
end

