-- ==== Sys2Proof/Machine/Realization.lean ====
section
/-! DEFINITION. What a hardware realization holds in bits where the model holds a natural or a triple: the 24-bit packing
of a buffer entry (20_memory.md rule R46), and the four time registers in 64 bits with the operations on them
(10_state.md rule R38). -/

namespace Sys2Proof.Machine

/-- A buffer entry in 24 bits: R at 23:16, G at 15:8, B at 7:0 (R46). -/
def packEntry (c : Colour) : BitVec 24 := c.r ++ c.g ++ c.b

/-- The colour of a packed entry (R46). -/
def unpackEntry (e : BitVec 24) : Colour := ⟨e.extractLsb' 16 8, e.extractLsb' 8 8, e.extractLsb' 0 8⟩

/-- TICK on a 64-bit clock, its operand zero-extended from 28 bits (R63, R88). -/
def tick64 (clock : BitVec 64) (imm : BitVec 28) : BitVec 64 := clock + imm.setWidth 64

/-- `now_ms` from a 64-bit clock (R77). -/
def nowMs64 (clock : BitVec 64) : BitVec 64 := clock / 1000#64

/-- The debounce test on 64-bit registers (R38, R78). Where `last` is above `now`, which no run reaches and for which the
spec gives no value, the difference wraps modulo 2^64, unlike the 0 of `intervalPassed`; and DEBOUNCE_MS is taken modulo
2^64 (DESIGN CHOICE, Assumption 21). -/
def intervalPassed64 (cfg : Config) (now last : BitVec 64) : Bool :=
  decide (now - last ≥ BitVec.ofNat 64 cfg.debounceMs)

/-- The reset-delay test on 64-bit registers (R38, R107). Where `start` is above `clock`, which no run reaches and for which
the spec gives no value, the difference wraps modulo 2^64, unlike the 0 of `State.latchElapsed`; and RESET_US is taken
modulo 2^64 (DESIGN CHOICE, Assumption 21). -/
def latchElapsed64 (cfg : Config) (clock start : BitVec 64) : Bool :=
  !decide (clock - start < BitVec.ofNat 64 cfg.resetUs)

end Sys2Proof.Machine
end

