-- ==== Sys2Proof/Machine/Agents.lean ====
section
/-! DEFINITION. The four agents that deliver events (00_scope.md rule R18), and which registers each may write
(10_state.md rule R37). -/

namespace Sys2Proof.Machine

/-- The four agents (R18). -/
inductive Agent where
  /-- EDGE_A, EDGE_B and EDGE_C: the source's interrupt context. -/
  | edge
  /-- RENDER: the source's main-loop render loop. -/
  | render
  /-- ENC_BYTE and LATCH_END: the sink and the reset-delay timer. -/
  | encoder
  /-- TICK and RESET. -/
  | host
deriving DecidableEq, Repr

/-- Which agent delivers an event (R18, R66). -/
def agentOf : Instr → Agent
  | .edgeA => .edge
  | .edgeB => .edge
  | .edgeC => .edge
  | .tick _ => .host
  | .render => .render
  | .encByte => .encoder
  | .latchEnd => .encoder
  | .reset _ => .host

/-- `t` differs from `s` at most in the registers that the event's agent writes, by R37's lists: the edge agent only sets
`redraw_flag`, the render agent clears it and `boot_pending`, and of the host's two events TICK writes `clock_us` and
RESET every register, but never `out` and `frames` (R112). -/
def writesWithin (i : Instr) (s t : State) : Prop :=
  match agentOf i with
  | .edge =>
    t = { s with
          counter := t.counter, lastAMs := t.lastAMs, lastBMs := t.lastBMs, mode := t.mode,
          redrawFlag := t.redrawFlag } ∧
      (s.redrawFlag = true → t.redrawFlag = true)
  | .render =>
    t = { s with
          redrawFlag := false, bootPending := false, buf := t.buf,
          encPhase := t.encPhase, encK := t.encK, frames := t.frames }
  | .encoder =>
    t = { s with
          encPhase := t.encPhase, encK := t.encK, latchStartUs := t.latchStartUs, out := t.out }
  | .host =>
    (∃ dt, i = .tick dt ∧ t = { s with clockUs := t.clockUs }) ∨
      (∃ ch, i = .reset ch ∧ t.out = s.out ∧ t.frames = s.frames ∧ t.input = s.input)

end Sys2Proof.Machine
end

