-- ==== Sys2Proof/Machine/Assembler.lean ====
section
/-! DEFINITION. The assembler syntax of 30_encoding.md rule R72 and the pseudo-events of rules R73 to R75. Text is a list
of characters. -/

namespace Sys2Proof.Machine

/-- The pseudo-events (R73, R74, R75). -/
inductive Pseudo where
  /-- `WAIT_US n`. -/
  | waitUs (n : Nat)
  /-- `WAIT_MS n`. -/
  | waitMs (n : Nat)
  /-- `FLUSH`. -/
  | flush
deriving DecidableEq, Repr

/-- The greatest operand of one TICK, 2^28 - 1 (R63). -/
def maxTick : Nat := 268435455

/-- The TICKs of `WAIT_US n` (R73). -/
def waitTicks (n : Nat) : List Instr :=
  if n ≤ maxTick then [.tick n]
  else List.replicate (n / maxTick) (.tick maxTick) ++ (if n % maxTick = 0 then [] else [.tick (n % maxTick)])

/-- The events a pseudo-event stands for (R73, R74, R75). FLUSH keeps R75's one TICK whatever RESET_US is: for a RESET_US
above `maxTick` that TICK is not well-formed and no word spells it (the spec is silent there; DESIGN CHOICE, Assumption
20). It cannot arise at 100. -/
def Pseudo.expand (cfg : Config) : Pseudo → List Instr
  | .waitUs n => waitTicks n
  | .waitMs n => waitTicks (1000 * n)
  | .flush => .render :: List.replicate (3 * cfg.nCells) .encByte ++ [.tick cfg.resetUs, .latchEnd]

/-- The value of a decimal or hexadecimal digit. -/
def digitValue (c : Char) : Option Nat :=
  if '0' ≤ c ∧ c ≤ '9' then some (c.toNat - 48)
  else if 'A' ≤ c ∧ c ≤ 'F' then some (c.toNat - 55)
  else if 'a' ≤ c ∧ c ≤ 'f' then some (c.toNat - 87)
  else none

/-- The value of a run of digits in a base, after the value `acc` of those before. -/
def digitsValue (base acc : Nat) : List Char → Option Nat
  | [] => some acc
  | c :: cs =>
    match digitValue c with
    | some d => if d < base then digitsValue base (base * acc + d) cs else none
    | none => none

/-- A number: decimal, or hexadecimal after `0x` (R72). -/
def parseNumber : List Char → Option Nat
  | [] => none
  | '0' :: 'x' :: c :: cs => digitsValue 16 0 (c :: cs)
  | cs => digitsValue 10 0 cs

/-- A blank between the parts of a line: a space, a tab or a carriage return, anywhere in the line. R72 does not say which
characters are white space (DESIGN CHOICE, Assumption 16). -/
def isBlank (c : Char) : Bool := c = ' ' || c = '\t' || c = '\r'

/-- The parts of a line at its blanks, `part` being the part read so far, its last character first. -/
def splitParts (part : List Char) : List Char → List (List Char)
  | [] => if part.isEmpty then [] else [part.reverse]
  | c :: cs =>
    if isBlank c then (if part.isEmpty then splitParts [] cs else part.reverse :: splitParts [] cs)
    else splitParts (c :: part) cs

/-- The lines of a text, `line` being the line read so far, its last character first. A line ends at a line feed alone,
which R72 does not say (DESIGN CHOICE, Assumption 16). -/
def splitLines (line : List Char) : List Char → List (List Char)
  | [] => [line.reverse]
  | c :: cs => if c = '\n' then line.reverse :: splitLines [] cs else splitLines (c :: line) cs

/-- The parts of a line before its comment, which starts at `;` (R72). -/
def lineParts (line : List Char) : List (List Char) := splitParts [] (line.takeWhile (· ≠ ';'))

/-- `label:`, which names a position for prose only (R72). R72 does not say which characters a label may have: here any
non-empty run of non-blank characters before a final `:` is one, a mnemonic or a further `:` too (DESIGN CHOICE,
Assumption 16). -/
def isLabel (part : List Char) : Bool := part.getLast? = some ':' && decide (part.length > 1)

/-- The mnemonics without operand. -/
def plainEvents : List Instr := [.edgeA, .edgeB, .edgeC, .render, .encByte, .latchEnd]

/-- A line of one part: a label, an event without operand, or FLUSH. Where RESET_US exceeds the operand of one TICK, a
FLUSH line is refused, as a TICK line with that operand is (DESIGN CHOICE, Assumption 20). -/
def parseBare (cfg : Config) (part : List Char) : Option (List Instr) :=
  if isLabel part then some []
  else if part = "FLUSH".toList then (if cfg.resetUs ≤ maxTick then some (Pseudo.expand cfg .flush) else none)
  else (plainEvents.find? (fun i => decide ((mnemonic i).toList = part))).map (fun i => [i])

/-- A line of a mnemonic and its operand: RESET with `0` or `1`, TICK with a number in 0..268435455, and the two waits
(R72, R73, R74). -/
def parseWithOperand (cfg : Config) (name arg : List Char) : Option (List Instr) :=
  if name = "RESET".toList then
    (if arg = ['0'] then some [.reset false] else if arg = ['1'] then some [.reset true] else none)
  else
    match parseNumber arg with
    | none => none
    | some n =>
      if name = "TICK".toList then (if n ≤ maxTick then some [.tick n] else none)
      else if name = "WAIT_US".toList then some (Pseudo.expand cfg (.waitUs n))
      else if name = "WAIT_MS".toList then some (Pseudo.expand cfg (.waitMs n))
      else none

/-- The events of one line (R72). -/
def parseLine (cfg : Config) (line : List Char) : Option (List Instr) :=
  match lineParts line with
  | [] => some []
  | [part] => parseBare cfg part
  | [name, arg] => parseWithOperand cfg name arg
  | _ => none

/-- The events of lines in order, if every line is of the syntax. -/
def parseLines (cfg : Config) : List (List Char) → Option (List Instr)
  | [] => some []
  | line :: rest =>
    match parseLine cfg line, parseLines cfg rest with
    | some is, some more => some (is ++ more)
    | _, _ => none

/-- The words of a run: the encodings of its lines in order (R72). -/
def assemble (cfg : Config) (text : List Char) : Option (List Word) :=
  (parseLines cfg (splitLines [] text)).map (List.map encode)

end Sys2Proof.Machine
end

