-- ==== Sys2Proof/Machine/Boundary.lean ====
section
/-! DEFINITION. The physical interface (30_encoding.md rule R71): which signal edges are events, the output signals, and
power loss (43_system.md rule R114). -/

namespace Sys2Proof.Machine

/-- The three button inputs (R76). -/
inductive Button where
  /-- Button A, the increment request. -/
  | a
  /-- Button B, the decrement request. -/
  | b
  /-- Button C, the joystick press. -/
  | c
deriving DecidableEq, Repr

/-- A change of a button's signal. -/
inductive SignalEdge where
  /-- High to low. -/
  | falling
  /-- Low to high. -/
  | rising
deriving DecidableEq, Repr

/-- A falling edge is the button's event; a rising edge delivers nothing (R71, R76). -/
def buttonEvent : Button → SignalEdge → Option Instr
  | .a, .falling => some .edgeA
  | .b, .falling => some .edgeB
  | .c, .falling => some .edgeC
  | _, .rising => none

/-- The 2-bit code of the mode register (R21). -/
def Mode.code : Mode → BitVec 2
  | .run => 0#2
  | .update => 1#2
  | .fault => 2#2

/-- The 2-bit code of the phase register (R29). -/
def EncPhase.code : EncPhase → BitVec 2
  | .idle => 0#2
  | .send => 1#2
  | .latch => 2#2

/-- `sink_data`, the byte the block offers: byte(`enc_k`) of R48 (R71). -/
def State.sinkData (s : State) : Byte := encByteAt s.buf s.encK

/-- `sink_valid = (mode = RUN ∧ enc_phase = SEND)` (R71). -/
def State.sinkValid (s : State) : Bool := decide (s.mode = .run) && decide (s.encPhase = .send)

/-- `update_req = (mode = UPDATE)` (R33, R71). -/
def State.updateReq (s : State) : Bool := decide (s.mode = .update)

/-- `fault_code[1:0]`, the register at the output port (R32, R71). -/
def State.faultPort (s : State) : BitVec 2 := s.faultCode

/-- `busy = (enc_phase ≠ IDLE)` (R71). -/
def State.busy (s : State) : Bool := decide (s.encPhase ≠ .idle)

/-- Power lost and regained: a RESET with the new start's channel result, and the two observations start over (R114). -/
def State.powerCycle (cfg : Config) (chOk : Bool) (s : State) : State :=
  { (applyReset cfg chOk s).stateAfter s with out := [], frames := 0 }

end Sys2Proof.Machine
end

