-- ==== Sys2Proof/Safety.lean ====
section
/-! DEFINITION. What counts as a safe run, in the terms the statements use: the invariants of 10_state.md rule R36, the
observations of accepted edges (40_debounce_counter.md rule R91), and the duties of the environment
(70_reset_and_hazards.md rule R141). -/

namespace Sys2Proof.Machine

/-- The invariants of R36, with R31's and the length of the buffer (R28). `since` is the value `frames` had at the last
reset: clause (6) of R36 speaks of the frames started since then, and State holds no such memory. -/
structure Inv (cfg : Config) (since : Nat) (s : State) : Prop where
  /-- R36 (1). -/
  counter_le : s.counter ≤ 9#4
  /-- R36 (2), button A. -/
  lastA_le : s.lastAMs ≤ s.nowMs
  /-- R36 (2), button B. -/
  lastB_le : s.lastBMs ≤ s.nowMs
  /-- R36 (3). -/
  encK_lt : s.encPhase = .send → s.encK.toNat < 3 * cfg.nCells
  /-- R36 (4), in the stronger form of R31: in every phase. -/
  latch_le : s.latchStartUs ≤ s.clockUs
  /-- R36 (5). -/
  fault_iff : s.mode = .fault ↔ s.faultCode ≠ 0#2
  /-- R36 (6). -/
  boot_frames : s.bootPending = true → s.frames = since
  /-- One entry per cell (R28). -/
  buf_length : s.buf.length = cfg.nCells

/-- `frames` at the last reset, after an event: RESET starts the count anew, any other event leaves it. -/
def sinceAfter (i : Instr) (s : State) (since : Nat) : Nat :=
  match i with
  | .reset _ => s.frames
  | _ => since

/-- The same for the word at the head of the input: an illegal word and no word leave it. -/
def sinceAfterStep (s : State) (since : Nat) : Nat :=
  match s.fetch with
  | none => since
  | some w =>
    match decode w with
    | .ok i => sinceAfter i s since
    | .error _ => since

/-- A good final state: no fault (R118). -/
def State.goodEnd (s : State) : Bool := decide (s.faultCode = 0#2)

/-- The two buttons with a debounce timer (R78). -/
inductive Tracked where
  /-- Button A. -/
  | a
  /-- Button B. -/
  | b
deriving DecidableEq, Repr

/-- The button's edge event. -/
def Tracked.edge : Tracked → Instr
  | .a => .edgeA
  | .b => .edgeB

/-- An edge of the button applied here is accepted (R78, R89). -/
def Tracked.accepts (cfg : Config) (s : State) : Tracked → Bool
  | .a => s.acceptsA cfg
  | .b => s.acceptsB cfg

/-- The timestamps of all edges of the button that a word list delivers (R77). -/
def edgeTimes (cfg : Config) (x : Tracked) : List Word → State → List Nat
  | [], _ => []
  | w :: ws, s =>
    (if spells w x.edge then [s.nowMs] else []) ++ edgeTimes cfg x ws (afterWord cfg w s)

/-- The timestamps of the accepted edges of the button that a word list delivers (R77, R78). -/
def acceptedTimes (cfg : Config) (x : Tracked) : List Word → State → List Nat
  | [], _ => []
  | w :: ws, s =>
    (if spells w x.edge && x.accepts cfg s then [s.nowMs] else []) ++ acceptedTimes cfg x ws (afterWord cfg w s)

/-- No word of the list spells a RESET. -/
abbrev NoReset (ws : List Word) : Prop := ∀ w ∈ ws, spellsReset w = false

/-- The duties of the environment in an endless run (R141). -/
structure Duties (cfg : Config) (env : Nat → Word) (s : State) : Prop where
  /-- (1) While sending in RUN, ENC_BYTE is eventually delivered. -/
  sinkAccepts : ∀ n, (trace cfg env s n).mode = .run → (trace cfg env s n).encPhase = .send →
    ∃ m, n ≤ m ∧ spells (env m) .encByte = true
  /-- (2) TICKs that advance time keep being delivered. -/
  timeGrows : ∀ n, ∃ m dt, n ≤ m ∧ 0 < dt ∧ spells (env m) (.tick dt) = true
  /-- (3) While LATCH_END is enabled, it is eventually delivered. -/
  latchReleases : ∀ n, (trace cfg env s n).latchEndHeld cfg = false →
    ∃ m, n ≤ m ∧ spells (env m) .latchEnd = true
  /-- (4) RENDER is delivered infinitely often. -/
  renderRuns : ∀ n, ∃ m, n ≤ m ∧ spells (env m) .render = true

end Sys2Proof.Machine
end

