-- ==== Sys2Proof/Certificates/Slice0/Obligations.lean ====
section
/-! DEFINITION. The statements for the provers. Each docstring names the rule of spec/ the statement formalises, or says
that it rests on a sentence the spec marks as derived or on a choice of the model. The field `input`, and the runs
`runWords`, `deliverAll` and `trace`, are the model's own form of the environment's sequence of events (Assumption 6). -/

open Sys2Proof Sys2Proof.Machine

/-! Steps and the event interface. -/

/-- When the word at the head of the input spells an event, the step is that event; it consumes the word unless the event
holds, and a held event leaves the whole state (R17). The input list is the model's own (Assumption 6), and that an event
which raises a fault consumes its word is the model's reading (Assumption 11). That RESET keeps the words still to come is
the model's choice (Assumption 13). -/
def Obligations.StepAppliesTheDecodedEvent : Prop :=
  ∀ (s : State) (w : Word) (ws : List Word) (i : Instr), s.input = w :: ws → decode w = .ok i →
    i.WellFormed ∧ step s = exec i s ∧
    ((apply Config.hardware i s).isHold = true → step s = .next s) ∧
    ((apply Config.hardware i s).isHold = false → ∃ t, step s = .next t ∧ t.input = ws)

/-- A word of a reserved code (R67) or with a must-be-zero bit set (R68) raises F_ILLEGAL_EVENT in every mode (R122), and the
first code is kept. The fields are taken here from the word's value: `op` is its quotient by 2^28, `imm` its
remainder. That the faulting word is consumed is the model's reading, not the rules' (Assumption 11). -/
def Obligations.IllegalWordRaisesItsFault : Prop :=
  ∀ (s : State) (w : Word) (ws : List Word), s.input = w :: ws →
    (w.toNat / 2 ^ 28 = 0 ∨ 9 ≤ w.toNat / 2 ^ 28 ∨
      (w.toNat / 2 ^ 28 ∈ [1, 2, 3, 5, 6, 7] ∧ w.toNat % 2 ^ 28 ≠ 0) ∨
      (w.toNat / 2 ^ 28 = 8 ∧ 2 ≤ w.toNat % 2 ^ 28)) →
    step s = .next { s with
      mode := .fault
      faultCode := if s.faultCode = 0#2 then 3#2 else s.faultCode
      input := ws }

/-- With no word delivered a step changes nothing. The model's choice (Assumption 8). -/
def Obligations.NoEventChangesNothing : Prop :=
  ∀ s : State, s.input = [] → step s = .next s

/-- Every event in every state, and every step, ends in a next state: the spec's hold and fault outcomes are next states
here (R17; Assumptions 6 and 10). That a step with no word delivered ends in a next state too is the model's choice, not
R17's (Assumption 8). -/
def Obligations.NoStepStopsTheMachine : Prop :=
  (∀ (i : Instr) (s : State), ∃ t, exec i s = .next t) ∧ (∀ s : State, ∃ t, step s = .next t)

/-- A hold is lifted by another agent's step (R17, R18; R107 for the test): a LATCH_END at the head of the input holds before
the window is over, and once the host's TICK is scheduled ahead of it and applied, the next step takes it. That delivered
words stand in a list, a held word stays at its head, and `deliverFirst` schedules another ahead of it, is the model's
choice (Assumption 6), which no rule gives. -/
def Obligations.HoldIsLiftedByAnotherStep : Prop :=
  ∀ (s : State) (ws : List Word) (dt : Nat), s.input = encode .latchEnd :: ws → s.mode = .run → s.encPhase = .latch →
    s.latchStartUs ≤ s.clockUs → s.clockUs < s.latchStartUs + 100 → dt < 2 ^ 28 →
    s.latchStartUs + 100 ≤ s.clockUs + dt →
    step s = .next s ∧
    ∃ t, step (s.deliverFirst (encode (.tick dt))) = .next t ∧
      step t = .next { s with clockUs := s.clockUs + dt, encPhase := .idle, input := ws }

/-- Steps over a list of delivered words are the spec's run of that list (95_test_vectors.md, conventions): after as many
steps as there are words the state is the run's, and the words left are those the run left pending. The input list with a
held word pending at its head is the model's choice (Assumption 6); so are that a faulting word is consumed (Assumption 11)
and that a RESET keeps the words still to come (Assumption 13). -/
def Obligations.StepsRunTheDeliveredWords : Prop :=
  ∀ (ws : List Word) (s : State),
    Host.Core.run Sys2Proof.core ws.length { s with input := ws } =
      .next { (runWords Config.hardware ws s).1 with input := (runWords Config.hardware ws s).2 }

/-! What each event does. -/

/-- EDGE_A (R85), in the states R36 admits: accepted in RUN once 500 ms have passed, and else taken without effect. -/
def Obligations.EdgeAFollowsItsRule : Prop :=
  ∀ s : State, s.counter ≤ 9#4 → s.lastAMs ≤ s.clockUs / 1000 →
    exec .edgeA s = .next
      (if s.mode = .run ∧ s.clockUs / 1000 - s.lastAMs ≥ 500 then
        { s with
          lastAMs := s.clockUs / 1000
          counter := if s.counter < 9#4 then s.counter + 1#4 else s.counter
          redrawFlag := s.redrawFlag || decide (s.counter < 9#4)
          input := s.input.tail }
      else { s with input := s.input.tail })

/-- EDGE_B (R86), in the states R36 admits. -/
def Obligations.EdgeBFollowsItsRule : Prop :=
  ∀ s : State, s.counter ≤ 9#4 → s.lastBMs ≤ s.clockUs / 1000 →
    exec .edgeB s = .next
      (if s.mode = .run ∧ s.clockUs / 1000 - s.lastBMs ≥ 500 then
        { s with
          lastBMs := s.clockUs / 1000
          counter := if s.counter > 0#4 then s.counter - 1#4 else s.counter
          redrawFlag := s.redrawFlag || decide (s.counter > 0#4)
          input := s.input.tail }
      else { s with input := s.input.tail })

/-- EDGE_C (R87): in RUN the mode becomes UPDATE and `update_req` 1, at any time; outside RUN it has no effect. -/
def Obligations.EdgeCFollowsItsRule : Prop :=
  ∀ s : State, ∃ t, exec .edgeC s = .next t ∧
    t = { s with mode := if s.mode = .run then .update else s.mode, input := s.input.tail } ∧
    (s.mode = .run → t.updateReq = true)

/-- TICK (R88): in every mode the clock advances by the operand, and nothing else changes. -/
def Obligations.TickFollowsItsRule : Prop :=
  ∀ (s : State) (dt : Nat),
    exec (.tick dt) s = .next { s with clockUs := s.clockUs + dt, input := s.input.tail }

/-- RENDER (R98), clause by clause: it holds outside RUN and outside IDLE; with nothing pending it changes nothing; with a
digit to draw it fills the buffer from the glyph ROM and starts the flush; with a counter above 9 it raises
F_DIGIT_RANGE and discards its writes (R94, R117). That the word which raised the fault is consumed is the model's reading,
not the rules' (Assumption 11). -/
def Obligations.RenderFollowsItsRule : Prop :=
  ∀ s : State,
    (s.mode ≠ .run ∨ s.encPhase ≠ .idle → exec .render s = .next s) ∧
    (s.mode = .run → s.encPhase = .idle → s.redrawFlag = false → s.bootPending = false →
      exec .render s = .next { s with input := s.input.tail }) ∧
    (s.mode = .run → s.encPhase = .idle → s.redrawFlag = true ∨ s.bootPending = true →
      ∀ d : Fin 10, s.counter.toNat = d.val →
        exec .render s = .next { s with
          redrawFlag := false
          bootPending := false
          buf := (List.range 25).map (fun i =>
            if i ∈ Config.hardware.rom[d].cells then Config.hardware.rom[d].color else ⟨0#8, 0#8, 0#8⟩)
          encK := 0#7
          encPhase := .send
          frames := s.frames + 1
          input := s.input.tail }) ∧
    (s.mode = .run → s.encPhase = .idle → s.redrawFlag = true ∨ s.bootPending = true → 9 < s.counter.toNat →
      exec .render s = .next { s with
        mode := .fault
        faultCode := if s.faultCode = 0#2 then 2#2 else s.faultCode
        input := s.input.tail })

/-- ENC_BYTE (R106, with the byte of R105), in the states R36 admits: it holds outside RUN and outside SEND; else it writes
the byte of cell `k div 3` in green, red, blue order, and moves to the next index, or after the last byte to LATCH. -/
def Obligations.EncByteFollowsItsRule : Prop :=
  ∀ s : State, s.buf.length = 25 → (s.encPhase = .send → s.encK.toNat < 75) →
    (s.mode ≠ .run ∨ s.encPhase ≠ .send → exec .encByte s = .next s) ∧
    (s.mode = .run → s.encPhase = .send →
      ∃ c, s.buf[s.encK.toNat / 3]? = some c ∧
        exec .encByte s = .next
          (if s.encK = 74#7 then
            { s with
              out := s.out ++ [c.b]
              encPhase := .latch
              latchStartUs := s.clockUs
              input := s.input.tail }
          else
            { s with
              out := s.out ++
                [if s.encK.toNat % 3 = 0 then c.g else if s.encK.toNat % 3 = 1 then c.r else c.b]
              encK := s.encK + 1#7
              input := s.input.tail }))

/-- LATCH_END (R107), in the states R36 admits: released in RUN and LATCH once 100 µs have passed, else held. -/
def Obligations.LatchEndFollowsItsRule : Prop :=
  ∀ s : State, s.latchStartUs ≤ s.clockUs →
    exec .latchEnd s = .next
      (if s.mode = .run ∧ s.encPhase = .latch ∧ s.clockUs - s.latchStartUs ≥ 100 then
        { s with encPhase := .idle, input := s.input.tail }
      else s)

/-- RESET (R112), in every mode, with both values of CH_OK: every register takes its reset value, `out` and `frames` stay;
CH_OK = 0 leaves FAULT with code 1. That the words still to come stay in `input` is the model's choice (Assumption 13). -/
def Obligations.ResetFollowsItsRule : Prop :=
  ∀ (s : State) (chOk : Bool),
    exec (.reset chOk) s = .next {
      mode := if chOk then .run else .fault
      clockUs := 0
      counter := 0#4
      redrawFlag := false
      bootPending := true
      lastAMs := 0
      lastBMs := 0
      buf := List.replicate 25 ⟨0#8, 0#8, 0#8⟩
      encPhase := .idle
      encK := 0#7
      latchStartUs := 0
      faultCode := if chOk then 0#2 else 1#2
      out := s.out
      frames := s.frames
      input := s.input.tail }

/-- From any state RESET 1 gives the state of R135, which the spec marks as derived from R112, and a power cycle gives the
power-on state of R114, or the failed start of R113. That the words still to come stay in `input` is the model's choice
(Assumption 13). -/
def Obligations.ResetAndPowerGiveTheResetState : Prop :=
  ∀ s : State,
    exec (.reset true) s =
      .next { State.reset with out := s.out, frames := s.frames, input := s.input.tail } ∧
    s.powerCycle Config.hardware true = { State.reset with input := s.input } ∧
    s.powerCycle Config.hardware false =
      { State.reset with mode := .fault, faultCode := 1#2, input := s.input }

/-! Debounce timer and counter. -/

/-- `sat_inc` and `sat_dec` on a digit (R82, R83), as naturals: no wrap-around at either end. -/
def Obligations.SaturatingFunctionsOnDigits : Prop :=
  ∀ v : BitVec 4, v.toNat ≤ 9 →
    (satInc v).toNat = min 9 (v.toNat + 1) ∧ (satDec v).toNat = v.toNat - 1

/-- The redraw request (R84), for any configuration: an accepted edge sets the flag iff the counter changed or
REDRAW_ON_CLAMP holds, and never clears it; a rejected edge changes nothing. -/
def Obligations.RedrawIsRequestedOnChange : Prop :=
  ∀ (cfg : Config) (s : State),
    (s.acceptsA cfg = true → ∃ t, apply cfg .edgeA s = .took t ∧
      (t.redrawFlag = true ↔ s.redrawFlag = true ∨ t.counter ≠ s.counter ∨ cfg.redrawOnClamp = true)) ∧
    (s.acceptsB cfg = true → ∃ t, apply cfg .edgeB s = .took t ∧
      (t.redrawFlag = true ↔ s.redrawFlag = true ∨ t.counter ≠ s.counter ∨ cfg.redrawOnClamp = true)) ∧
    (s.acceptsA cfg = false → apply cfg .edgeA s = .took s) ∧
    (s.acceptsB cfg = false → apply cfg .edgeB s = .took s)

/-- An accepted edge updates its timestamp even when the counter clamps (R93), and then nothing else. -/
def Obligations.ClampedEdgeStampsItsTime : Prop :=
  ∀ s : State, s.mode = .run →
    (s.counter = 9#4 → s.lastAMs + 500 ≤ s.clockUs / 1000 →
      exec .edgeA s = .next { s with lastAMs := s.clockUs / 1000, input := s.input.tail }) ∧
    (s.counter = 0#4 → s.lastBMs + 500 ≤ s.clockUs / 1000 →
      exec .edgeB s = .next { s with lastBMs := s.clockUs / 1000, input := s.input.tail })

/-- The acceptance boundary in microseconds, which 40_debounce_counter.md (R79) marks as derived: an edge in RUN is accepted
iff `clock_us ≥ 1000·(last_X + 500)`, and its timestamp moves exactly then. -/
def Obligations.DebounceBoundaryInMicroseconds : Prop :=
  ∀ s : State, s.mode = .run →
    (s.lastAMs ≤ s.clockUs / 1000 → ∃ t, exec .edgeA s = .next t ∧
      t.lastAMs = if s.clockUs ≥ 1000 * (s.lastAMs + 500) then s.clockUs / 1000 else s.lastAMs) ∧
    (s.lastBMs ≤ s.clockUs / 1000 → ∃ t, exec .edgeB s = .next t ∧
      t.lastBMs = if s.clockUs ≥ 1000 * (s.lastBMs + 500) then s.clockUs / 1000 else s.lastBMs)

/-- Debounce is per button (R81): EDGE_A neither reads nor writes `last_b_ms`, EDGE_B neither reads nor writes `last_a_ms`,
and EDGE_C neither reads nor writes either of them. -/
def Obligations.DebounceIsPerButton : Prop :=
  ∀ (s : State) (x y : Nat),
    (∀ t, exec .edgeA s = .next t →
      t.lastBMs = s.lastBMs ∧ exec .edgeA { s with lastBMs := y } = .next { t with lastBMs := y }) ∧
    (∀ t, exec .edgeB s = .next t →
      t.lastAMs = s.lastAMs ∧ exec .edgeB { s with lastAMs := x } = .next { t with lastAMs := x }) ∧
    (∀ t, exec .edgeC s = .next t →
      t.lastAMs = s.lastAMs ∧ t.lastBMs = s.lastBMs ∧
      exec .edgeC { s with lastAMs := x, lastBMs := y } = .next { t with lastAMs := x, lastBMs := y })

/-- An edge event is taken whatever the encoder and the render loop are doing (R90): it never holds, and with other values
in their registers it does the same and leaves those values. -/
def Obligations.EdgesIgnoreRenderAndEncoder : Prop :=
  ∀ (i : Instr) (s : State), agentOf i = .edge →
    (apply Config.hardware i s).isHold = false ∧
    ∀ (t : State) (bp : Bool) (buf : List Colour) (ph : EncPhase) (k : BitVec 7) (ls fr : Nat) (o : List Byte),
      exec i s = .next t →
      exec i { s with
        bootPending := bp, buf := buf, encPhase := ph, encK := k, latchStartUs := ls, frames := fr, out := o } =
        .next { t with
          bootPending := bp, buf := buf, encPhase := ph, encK := k, latchStartUs := ls, frames := fr, out := o }

/-- The debounce property (clauses (1) and (2) of the spec's derived R91): between resets two accepted edges of one button
are at least 500 ms apart, and any window of 500 ms has at most one. -/
def Obligations.AcceptedEdgesAreSpaced : Prop :=
  ∀ (x : Tracked) (ws : List Word) (s : State), NoReset ws →
    (acceptedTimes Config.hardware x ws s).Pairwise (fun t1 t2 => t1 + 500 ≤ t2) ∧
    ∀ t, ((acceptedTimes Config.hardware x ws s).filter (fun u => decide (t ≤ u ∧ u < t + 500))).length ≤ 1

/-- The first edge after reset (clauses (3) and (4) of the spec's derived R91, with R80): from a reset every accepted edge
has `now_ms ≥ 500`, and, as long as the block is in RUN, the first edge with `now_ms ≥ 500` is accepted. -/
def Obligations.FirstEdgeAfterReset : Prop :=
  ∀ (x : Tracked) (ws : List Word) (s : State), NoReset ws →
    (∀ t ∈ acceptedTimes Config.hardware x ws (s.resetRegisters Config.hardware), 500 ≤ t) ∧
    ((∀ t ∈ edgeTimes Config.hardware x ws (s.resetRegisters Config.hardware), t < 500) →
      (deliverAll Config.hardware ws (s.resetRegisters Config.hardware)).mode = .run →
      500 ≤ (deliverAll Config.hardware ws (s.resetRegisters Config.hardware)).nowMs →
      x.accepts Config.hardware (deliverAll Config.hardware ws (s.resetRegisters Config.hardware)) = true)

/-- The clamp property (the spec's derived R92), for any configuration: whatever is delivered, the counter stays a digit. -/
def Obligations.CounterStaysADigit : Prop :=
  ∀ (cfg : Config) (ws : List Word) (s : State), s.counter.toNat ≤ 9 → (deliverAll cfg ws s).counter.toNat ≤ 9

/-- Two edges in one instant are taken one after the other, and the order matters (R125): at 9 with both intervals passed,
A then B gives 8 and B then A gives 9; C then A leaves the counter, and A then C changes it before update mode. -/
def Obligations.OrderOfSimultaneousEdgesMatters : Prop :=
  ∀ s : State, s.mode = .run →
    (s.counter = 9#4 → s.lastAMs + 500 ≤ s.nowMs → s.lastBMs + 500 ≤ s.nowMs →
      (deliverAll Config.hardware [encode .edgeA, encode .edgeB] s).counter = 8#4 ∧
      (deliverAll Config.hardware [encode .edgeB, encode .edgeA] s).counter = 9#4) ∧
    (deliverAll Config.hardware [encode .edgeC, encode .edgeA] s).counter = s.counter ∧
    (s.counter < 9#4 → s.lastAMs + 500 ≤ s.nowMs →
      (deliverAll Config.hardware [encode .edgeA, encode .edgeC] s).counter = s.counter + 1#4 ∧
      (deliverAll Config.hardware [encode .edgeA, encode .edgeC] s).mode = .update)

/-- The alternative of R80: with FIRST_EDGE_FREE false the two extra bits change nothing, and with it true the first edge of
a button in RUN is accepted whatever the time and sets its bit. That the bits are there, and may be set, with
FIRST_EDGE_FREE false and then have no effect is the model's reading (Assumption 17): R80 adds them only in the
alternative. -/
def Obligations.FirstEdgeFreeAlternative : Prop :=
  ∀ (cfg : Config) (s : State) (seen : SeenBits),
    (cfg.firstEdgeFree = false → ∀ i, (afterEventFree cfg i s seen).1 = (apply cfg i s).stateAfter s) ∧
    (cfg.firstEdgeFree = true → s.mode = .run →
      (seen.a = false → (afterEventFree cfg .edgeA s seen).1.lastAMs = s.clockUs / 1000 ∧
        (afterEventFree cfg .edgeA s seen).2 = { seen with a := true }) ∧
      (seen.b = false → (afterEventFree cfg .edgeB s seen).1.lastBMs = s.clockUs / 1000 ∧
        (afterEventFree cfg .edgeB s seen).2 = { seen with b := true }))

/-! Glyph ROM and render loop. -/

/-- Well-formedness of a glyph ROM (R10): a table is well-formed iff every digit has a non-empty list of cells below
N_CELLS, none twice; an ill-formed one is refused as a configuration; and this hardware's ROM, whatever it holds, is
well-formed. -/
def Obligations.GlyphRomIsComplete : Prop :=
  (∀ (n : Nat) (t : GlyphTable), GlyphTable.wf n t = true ↔
    ∀ d : Fin 10, t[d].cells ≠ [] ∧ (∀ i ∈ t[d].cells, i < n) ∧ t[d].cells.Nodup) ∧
  (∀ cfg : Config, GlyphTable.wf cfg.nCells cfg.rom = false → cfg.configure? = none) ∧
  (∀ d : Fin 10, (romRead Config.hardware d).cells ≠ [] ∧
    (∀ i ∈ (romRead Config.hardware d).cells, i < 25) ∧ (romRead Config.hardware d).cells.Nodup)

/-- The source's clear-and-set sequence and the multiplexer give the same buffer, and the order of a glyph's cell list does
not matter (the spec's derived R97). -/
def Obligations.DrawingSequenceEqualsMultiplexer : Prop :=
  (∀ (cfg : Config) (d : Fin 10), cfg.wf = true → drawSequence cfg d = frameBuffer cfg d) ∧
  (∀ (n : Nat) (cells cells' : List Nat) (c : Colour), cells.Perm cells' →
    glyphPixels n ⟨cells, c⟩ = glyphPixels n ⟨cells', c⟩)

/-- The boot draw (R99): after RESET 1, whatever is delivered but RESET and RENDER, the first RENDER taken draws a frame of
the counter's value and clears both bits. -/
def Obligations.BootFrameShowsTheCounter : Prop :=
  ∀ (s : State) (ws : List Word), NoReset ws → (∀ w ∈ ws, spells w .render = false) →
    (deliverAll Config.hardware ws (s.resetRegisters Config.hardware)).mode = .run →
    ∃ d : Fin 10, (deliverAll Config.hardware ws (s.resetRegisters Config.hardware)).counter.toNat = d.val ∧
      applyWord Config.hardware 0x50000000#32 (deliverAll Config.hardware ws (s.resetRegisters Config.hardware)) =
        .took { deliverAll Config.hardware ws (s.resetRegisters Config.hardware) with
          redrawFlag := false
          bootPending := false
          buf := frameBuffer Config.hardware d
          encK := 0#7
          encPhase := .send
          frames := s.frames + 1 }

/-- When RENDER holds and what lifts it (R101): (1) outside IDLE, until LATCH_END (or a RESET); (2) outside RUN, until RESET.
While it holds, no event but RESET changes the buffer. -/
def Obligations.RenderHoldsUntilLifted : Prop :=
  ∀ s : State,
    (s.encPhase ≠ .idle → exec .render s = .next s ∧
      ∀ i t, exec i s = .next t → t.encPhase = .idle → i = .latchEnd ∨ ∃ ch, i = .reset ch) ∧
    (s.mode ≠ .run → exec .render s = .next s ∧
      ∀ i t, exec i s = .next t → t.mode = .run → ∃ ch, i = .reset ch) ∧
    (s.encPhase ≠ .idle ∨ s.mode ≠ .run →
      ∀ i t, exec i s = .next t → (∀ ch, i ≠ .reset ch) → t.buf = s.buf)

/-- Render idempotence (the spec's derived R102): two RENDERs that each draw the same digit leave the same buffer, whatever
the buffer and every other register held before, and the buffer is that of the source's clear-and-set sequence. -/
def Obligations.SameDigitGivesTheSameBuffer : Prop :=
  ∀ (s u : State) (d : Fin 10), s.draws d → u.draws d →
    (afterWord Config.hardware (encode .render) s).buf = (afterWord Config.hardware (encode .render) u).buf ∧
    (afterWord Config.hardware (encode .render) s).buf = drawSequence Config.hardware d

/-- No redraw request is lost (the safety half of the spec's derived R103): until a RESET, a set flag stays set or a frame
has been started since. -/
def Obligations.PendingRedrawIsNeverDropped : Prop :=
  ∀ (s : State) (ws : List Word), NoReset ws → s.redrawFlag = true →
    (deliverAll Config.hardware ws s).redrawFlag = true ∨ s.frames < (deliverAll Config.hardware ws s).frames

/-- No lost redraw (the spec's derived R103): if an edge in RUN changes the counter, and no RESET, EDGE_C or illegal word
follows, then in an environment that keeps its duties (R141) some later RENDER draws the counter's value of its time. The
duty that time grows is read as TICKs with an operand above 0 (Assumption 19). -/
def Obligations.EveryChangeIsEventuallyDrawn : Prop :=
  ∀ (env : Nat → Word) (s : State) (since n : Nat), Duties Config.hardware env s →
    Inv Config.hardware since (trace Config.hardware env s n) →
    (trace Config.hardware env s n).mode = .run →
    spells (env n) .edgeA = true ∨ spells (env n) .edgeB = true →
    (trace Config.hardware env s (n + 1)).counter ≠ (trace Config.hardware env s n).counter →
    (∀ m, n < m → ∃ i, decode (env m) = .ok i ∧ i ≠ .edgeC ∧ ∀ ch, i ≠ .reset ch) →
    ∃ (m : Nat) (d : Fin 10), n < m ∧ spells (env m) .render = true ∧
      (trace Config.hardware env s m).counter.toNat = d.val ∧
      (trace Config.hardware env s (m + 1)).buf = frameBuffer Config.hardware d ∧
      (trace Config.hardware env s (m + 1)).encPhase = .send ∧
      (trace Config.hardware env s (m + 1)).frames = (trace Config.hardware env s m).frames + 1

/-! LED encoder. -/

/-- One flush (R48, R104), for any well-formed configuration: from SEND with index 0, 3·N_CELLS ENC_BYTEs write the green,
red and blue byte of every cell in index order, and leave LATCH with the timer started. -/
def Obligations.FlushSerializesTheBuffer : Prop :=
  ∀ (cfg : Config) (s : State), cfg.wf = true → s.mode = .run → s.encPhase = .send → s.encK = 0#7 →
    s.buf.length = cfg.nCells →
    deliverAll cfg (List.replicate (3 * cfg.nCells) (encode .encByte)) s =
      { s with
        out := s.out ++ s.buf.flatMap (fun c => [c.g, c.r, c.b])
        encPhase := .latch
        encK := BitVec.ofNat 7 (3 * cfg.nCells - 1)
        latchStartUs := s.clockUs }

/-- Frame content (the spec's derived R109): after a RENDER that draws digit `d`, the next 75 bytes written, whatever is
delivered in between but RESET and EDGE_C, are the green, red and blue bytes of `pix(d, i)`, cell by cell. -/
def Obligations.FrameShowsTheDrawnDigit : Prop :=
  ∀ (s : State) (d : Fin 10) (ws : List Word), s.draws d → NoReset ws → (∀ w ∈ ws, spells w .edgeC = false) →
    ∃ bytes, (deliverAll Config.hardware ws (afterWord Config.hardware (encode .render) s)).out = s.out ++ bytes ∧
      bytes.take 75 =
        ((List.range 25).flatMap (fun i =>
          [(pix Config.hardware d i).g, (pix Config.hardware d i).r, (pix Config.hardware d i).b])).take bytes.length

/-- The lockout (the spec's derived R108): after the last byte of a frame at time `t`, until a RESET, no byte is written at a
time below `t + 100`. -/
def Obligations.LatchWindowLockout : Prop :=
  ∀ (s t : State) (ws : List Word), s.encPhase = .send → exec .encByte s = .next t → t.encPhase = .latch →
    NoReset ws → (deliverAll Config.hardware ws t).clockUs < s.clockUs + 100 →
    (deliverAll Config.hardware ws t).out = t.out

/-- SinkWrite is performed by ENC_BYTE only, one byte at a time (R52): every event leaves the stream as it was, but an
ENC_BYTE that is taken appends one byte. A step with no word delivered changes nothing by the model's choice
(Assumption 8). -/
def Obligations.OnlyEncByteWritesTheSink : Prop :=
  ∀ (s t : State), step s = .next t →
    t.out = s.out ∨
    (s.input.head? = some 0x60000000#32 ∧ s.mode = .run ∧ s.encPhase = .send ∧ ∃ b, t.out = s.out ++ [b])

/-- The pseudo-event FLUSH (R75, which the spec marks as derived): from a state in which RENDER draws, its events are all
taken, draw one whole frame, and return the encoder to IDLE 100 µs later. -/
def Obligations.FlushDrawsOneFrame : Prop :=
  ∀ (s : State) (d : Fin 10), s.draws d →
    runWords Config.hardware ((Pseudo.expand Config.hardware .flush).map encode) s =
      ({ s with
          redrawFlag := false
          bootPending := false
          buf := frameBuffer Config.hardware d
          encPhase := .idle
          encK := 74#7
          latchStartUs := s.clockUs
          clockUs := s.clockUs + 100
          out := s.out ++ frame Config.hardware d
          frames := s.frames + 1 }, [])

/-- The output signals foretell ENC_BYTE (R71): with `sink_valid` it is taken and appends `sink_data`, without it holds;
`busy` is 0 exactly in IDLE, and `update_req` is 1 exactly in UPDATE (R33). -/
def Obligations.OutputsForetellTheByte : Prop :=
  ∀ s : State,
    (s.sinkValid = true → ∃ t, apply Config.hardware .encByte s = .took t ∧ t.out = s.out ++ [s.sinkData]) ∧
    (s.sinkValid = false → apply Config.hardware .encByte s = .hold) ∧
    (s.busy = false ↔ s.encPhase = .idle) ∧ (s.updateReq = true ↔ s.mode = .update)

/-! Faults, modes and the whole machine. -/

/-- FAULT mode (R118), for a state whose `fault_code` records its fault: TICK advances the clock, edges have no effect,
RENDER, ENC_BYTE and LATCH_END hold, an illegal word keeps the code, only RESET leaves it; and such a state is no good
final state. That the illegal word is consumed is the model's reading, not the rule's (Assumption 11), and that a
step with no word delivered changes nothing is its choice (Assumption 8). -/
def Obligations.FaultModeFollowsItsRule : Prop :=
  ∀ s : State, s.mode = .fault → s.faultCode ≠ 0#2 →
    (∀ dt, exec (.tick dt) s = .next { s with clockUs := s.clockUs + dt, input := s.input.tail }) ∧
    (∀ i, i = .edgeA ∨ i = .edgeB ∨ i = .edgeC → exec i s = .next { s with input := s.input.tail }) ∧
    (∀ i, i = .render ∨ i = .encByte ∨ i = .latchEnd → exec i s = .next s) ∧
    (∀ w ws e, s.input = w :: ws → decode w = .error e → step s = .next { s with input := ws }) ∧
    (∀ t, step s = .next t → (∀ w, s.input.head? = some w → spellsReset w = false) →
      t.mode = .fault ∧ t.faultCode = s.faultCode) ∧
    (∃ t, exec (.reset true) s = .next t ∧ t.mode = .run ∧ t.faultCode = 0#2) ∧
    s.goodEnd = false

/-- UPDATE mode (R126): EDGE_C moves RUN to UPDATE and raises `update_req`; there RENDER, ENC_BYTE and LATCH_END hold, edges
have no effect, TICK advances time, an illegal word moves to FAULT, and only RESET returns to RUN. A step with no word delivered changes nothing by the model's
choice (Assumption 8). -/
def Obligations.UpdateModeFollowsItsRule : Prop :=
  (∀ s : State, s.mode = .run → ∃ t, exec .edgeC s = .next t ∧ t.mode = .update ∧ t.updateReq = true) ∧
  ∀ s : State, s.mode = .update →
    (∀ dt, exec (.tick dt) s = .next { s with clockUs := s.clockUs + dt, input := s.input.tail }) ∧
    (∀ i, i = .edgeA ∨ i = .edgeB ∨ i = .edgeC → exec i s = .next { s with input := s.input.tail }) ∧
    (∀ i, i = .render ∨ i = .encByte ∨ i = .latchEnd → exec i s = .next s) ∧
    (∀ w ws e, s.input = w :: ws → decode w = .error e → ∃ t, step s = .next t ∧ t.mode = .fault) ∧
    (∀ t, step s = .next t → t.mode = .run → ∃ w, s.input.head? = some w ∧ spells w (.reset true) = true)

/-- Channel failure (R113): RESET with CH_OK = 0 leaves FAULT with code 1 and every other register at its reset value, and
until another RESET no frame is started and no byte written. That the words still to come stay in `input` is the model's
choice (Assumption 13). -/
def Obligations.FailedChannelStartsNoFrame : Prop :=
  ∀ (s : State) (ws : List Word), NoReset ws → ∃ t, exec (.reset false) s = .next t ∧
    t = { State.reset with
          mode := .fault, faultCode := 1#2, out := s.out, frames := s.frames, input := s.input.tail } ∧
    (deliverAll Config.hardware ws t).mode = .fault ∧ (deliverAll Config.hardware ws t).faultCode = 1#2 ∧
    (deliverAll Config.hardware ws t).frames = s.frames ∧ (deliverAll Config.hardware ws t).out = s.out

/-- F_INIT_NO_CHANNEL is raised exactly when a RESET carries CH_OK = 0 (R119). A step with no word delivered changes nothing by
the model's choice (Assumption 8). -/
def Obligations.InitFaultOnlyByFailedReset : Prop :=
  ∀ s t : State, step s = .next t →
    (s.faultCode ≠ 1#2 → t.faultCode = 1#2 → s.input.head? = some 0x80000000#32) ∧
    (s.input.head? = some 0x80000000#32 → t.mode = .fault ∧ t.faultCode = 1#2)

/-- F_DIGIT_RANGE cannot be reached (R120): from reset, whatever is delivered, the code is never 2. -/
def Obligations.DigitFaultIsUnreachable : Prop :=
  ∀ ws : List Word, (deliverAll Config.hardware ws State.reset).faultCode ≠ 2#2

/-- What leaves RUN (R115, R121, R122): the word of EDGE_C goes to UPDATE; a failed RESET, an illegal word, and a RENDER of
a counter above 9 go to FAULT; nothing else does either. A step with no word delivered changes nothing by the model's choice
(Assumption 8). -/
def Obligations.OnlyTheseEventsLeaveRun : Prop :=
  ∀ s t : State, s.mode = .run → step s = .next t → t.mode ≠ .run →
    ∃ w, s.input.head? = some w ∧
      ((t.mode = .update ∧ w = 0x30000000#32) ∨
        (t.mode = .fault ∧
          (w = 0x80000000#32 ∨ (∃ e, decode w = .error e) ∨ (w = 0x50000000#32 ∧ 9 < s.counter.toNat))))

/-- The writers of R37, for any configuration: an event that is taken changes only registers of its agent's list, an
edge only sets the redraw flag and RENDER only clears it, and TICK changes the clock alone. The lists are followed against
R37's sentence about the one register with two writers (Assumption 15), and that RESET keeps the words still to come, like
every other event before its word is consumed, is the model's choice (Assumption 13). -/
def Obligations.AgentsWriteOnlyTheirRegisters : Prop :=
  ∀ (cfg : Config) (i : Instr) (s t : State), apply cfg i s = .took t → writesWithin i s t

/-- Only TICK and RESET move the clock (R22, R145), and without a RESET it never goes back. -/
def Obligations.TimeMovesByTickOnly : Prop :=
  (∀ (i : Instr) (s t : State), exec i s = .next t →
    t.clockUs = s.clockUs ∨ (∃ dt, i = .tick dt ∧ t.clockUs = s.clockUs + dt) ∨ ∃ ch, i = .reset ch) ∧
  (∀ (ws : List Word) (s : State), NoReset ws → s.clockUs ≤ (deliverAll Config.hardware ws s).clockUs)

/-- The reset state meets the invariants of R36, with no frame started; the argument 0 of `Inv`, the frames at the last
reset, is the model's form of clause (6) (Assumption 18). -/
def Obligations.ResetMeetsTheInvariants : Prop := Inv Config.hardware 0 State.reset

/-- Every step keeps the invariants of R36, which the spec marks as derived: from every state that meets them, whatever word
comes next. That clause (6) speaks of the frames since the last reset through the argument `since` is the model's form of it
(Assumption 18), and that a step with no word delivered changes nothing is its choice (Assumption 8). -/
def Obligations.EveryStepKeepsTheInvariants : Prop :=
  ∀ (s t : State) (since : Nat), Inv Config.hardware since s → step s = .next t →
    Inv Config.hardware (sinceAfterStep s since) t

/-! A realization in bits. -/

/-- The packing of a buffer entry (R46): R at bits 23:16, G at 15:8, B at 7:0, and packing loses nothing. -/
def Obligations.EntryPackingFields : Prop :=
  (∀ c : Colour, (packEntry c).toNat = c.r.toNat * 2 ^ 16 + c.g.toNat * 2 ^ 8 + c.b.toNat ∧
    unpackEntry (packEntry c) = c) ∧
  (∀ e : BitVec 24, packEntry (unpackEntry e) = e)

/-- The natural-number times and the 64-bit realization agree while the clock is below 2^64 µs, in the states R36 admits
(R38): millisecond time, both debounce tests, the reset-delay test, and TICK. -/
def Obligations.SixtyFourBitTimesAgree : Prop :=
  ∀ s : State, s.clockUs < 2 ^ 64 → s.lastAMs ≤ s.nowMs → s.lastBMs ≤ s.nowMs → s.latchStartUs ≤ s.clockUs →
    (nowMs64 (BitVec.ofNat 64 s.clockUs)).toNat = s.nowMs ∧
    intervalPassed64 Config.hardware (nowMs64 (BitVec.ofNat 64 s.clockUs)) (BitVec.ofNat 64 s.lastAMs) =
      intervalPassed Config.hardware s.nowMs s.lastAMs ∧
    intervalPassed64 Config.hardware (nowMs64 (BitVec.ofNat 64 s.clockUs)) (BitVec.ofNat 64 s.lastBMs) =
      intervalPassed Config.hardware s.nowMs s.lastBMs ∧
    latchElapsed64 Config.hardware (BitVec.ofNat 64 s.clockUs) (BitVec.ofNat 64 s.latchStartUs) =
      s.latchElapsed Config.hardware ∧
    ∀ imm : BitVec 28, s.clockUs + imm.toNat < 2 ^ 64 →
      (tick64 (BitVec.ofNat 64 s.clockUs) imm).toNat = s.clockUs + imm.toNat

/-! Encoding. -/

/-- Words of 95_test_vectors.md section 2.1 and what they decode to. -/
def Obligations.SampleWordsDecode : Prop :=
  decode 0x10000000#32 = .ok .edgeA ∧ decode 0x20000000#32 = .ok .edgeB ∧ decode 0x30000000#32 = .ok .edgeC ∧
  decode 0x4007A120#32 = .ok (.tick 500000) ∧ decode 0x4FFFFFFF#32 = .ok (.tick 268435455) ∧
  decode 0x50000000#32 = .ok .render ∧ decode 0x60000000#32 = .ok .encByte ∧ decode 0x70000000#32 = .ok .latchEnd ∧
  decode 0x80000001#32 = .ok (.reset true) ∧ decode 0x80000000#32 = .ok (.reset false)

/-- The decoder is that of R70, on every word: `op` and `imm` are here the word's quotient and remainder by 2^28; and a word
that spells no event takes the block to FAULT in any mode. -/
def Obligations.DecodeFollowsTheRule : Prop :=
  ∀ (w : Word),
    (decode w = .ok .edgeA ↔ w.toNat / 2 ^ 28 = 1 ∧ w.toNat % 2 ^ 28 = 0) ∧
    (decode w = .ok .edgeB ↔ w.toNat / 2 ^ 28 = 2 ∧ w.toNat % 2 ^ 28 = 0) ∧
    (decode w = .ok .edgeC ↔ w.toNat / 2 ^ 28 = 3 ∧ w.toNat % 2 ^ 28 = 0) ∧
    (∀ dt, decode w = .ok (.tick dt) ↔ w.toNat / 2 ^ 28 = 4 ∧ w.toNat % 2 ^ 28 = dt) ∧
    (decode w = .ok .render ↔ w.toNat / 2 ^ 28 = 5 ∧ w.toNat % 2 ^ 28 = 0) ∧
    (decode w = .ok .encByte ↔ w.toNat / 2 ^ 28 = 6 ∧ w.toNat % 2 ^ 28 = 0) ∧
    (decode w = .ok .latchEnd ↔ w.toNat / 2 ^ 28 = 7 ∧ w.toNat % 2 ^ 28 = 0) ∧
    (decode w = .ok (.reset false) ↔ w.toNat / 2 ^ 28 = 8 ∧ w.toNat % 2 ^ 28 = 0) ∧
    (decode w = .ok (.reset true) ↔ w.toNat / 2 ^ 28 = 8 ∧ w.toNat % 2 ^ 28 = 1) ∧
    (∀ (s : State) (ws : List Word), s.input = w :: ws → (∀ i, decode w ≠ .ok i) →
      ∃ t, step s = .next t ∧ t.mode = .fault ∧ (s.faultCode = 0#2 → t.faultCode = 3#2))

/-- A word encodes a legal event iff it matches exactly one row of the opcode map (R66), and no word matches two. -/
def Obligations.LegalWordsMatchOneRow : Prop :=
  ∀ w : Word,
    ((∃ i, decode w = .ok i) ↔ (opcodeTable.filter (fun row => row.matchesWord w)).length = 1) ∧
    (opcodeTable.filter (fun row => row.matchesWord w)).length ≤ 1

/-- Decoding an encoded well-formed event gives it back, every operand at every value the encoding admits. -/
def Obligations.DecodeOfEncode : Prop :=
  ∀ i : Instr, i.WellFormed → decode (encode i) = .ok i

/-- Each event has one word: a legal word is the encoding of what it decodes to, which is well-formed
(92_eei_decisions.md D25). -/
def Obligations.EncodeOfDecode : Prop :=
  ∀ (w : Word) (i : Instr), decode w = .ok i → i.WellFormed ∧ encode i = w

/-- The waits of R73 and R74 expand to TICKs a word can hold, and running them advances the clock by exactly the time named
and changes nothing else. -/
def Obligations.WaitsAdvanceTimeExactly : Prop :=
  ∀ (n : Nat) (s : State),
    (∀ i ∈ Pseudo.expand Config.hardware (.waitUs n), i.WellFormed) ∧
    runWords Config.hardware ((Pseudo.expand Config.hardware (.waitUs n)).map encode) s =
      ({ s with clockUs := s.clockUs + n }, []) ∧
    runWords Config.hardware ((Pseudo.expand Config.hardware (.waitMs n)).map encode) s =
      ({ s with clockUs := s.clockUs + 1000 * n }, [])

/-- A line that is the mnemonic of an event without operand assembles to that event's word (R72). -/
def Obligations.MnemonicAssemblesToItsWord : Prop :=
  ∀ (cfg : Config) (i : Instr), i ∈ plainEvents →
    assemble cfg (mnemonic i).toList = some [encode i]

/-- A comment runs to the end of its line and changes nothing (R72). That a line ends at a line feed alone is the model's
choice (Assumption 16). -/
def Obligations.CommentsAreIgnored : Prop :=
  ∀ (cfg : Config) (line comment : List Char), '\n' ∉ line → '\n' ∉ comment →
    assemble cfg (line ++ ';' :: comment) = assemble cfg line
end

