-- ==== Sys2Proof/Laws/Config.lean ====
section
/-! SUPPORT. The parameters of this hardware, and the well-formedness of its glyph ROM whatever its contents. -/

namespace Sys2Proof

@[simp] theorem Config.hardware_nCells : Config.hardware.nCells = 25 := rfl
@[simp] theorem Config.hardware_debounceMs : Config.hardware.debounceMs = 500 := rfl
@[simp] theorem Config.hardware_resetUs : Config.hardware.resetUs = 100 := rfl
@[simp] theorem Config.hardware_redrawOnClamp : Config.hardware.redrawOnClamp = false := rfl
@[simp] theorem Config.hardware_firstEdgeFree : Config.hardware.firstEdgeFree = false := rfl

/-- The conditions of R10 as propositions. -/
theorem Glyph.wf_iff (n : Nat) (g : Glyph) :
    g.wf n = true ↔ g.cells ≠ [] ∧ (∀ i ∈ g.cells, i < n) ∧ g.cells.Nodup := by
  simp [Glyph.wf, and_assoc]

/-- The configuration of this hardware is one the model is defined for. -/
theorem Config.hardware_wf : Config.hardware.wf = true := by
  have h := Config.openGlyphRom.wellFormed
  simp only [Config.wf, Config.hardware, h]
  decide

end Sys2Proof
end

