-- ==== Sys2Proof/Laws/State.lean ====
section
/-! SUPPORT. What each field holds after each named update of the state: one lemma per field and update, all by rfl. -/

namespace Sys2Proof.Machine

section
variable (s : State)

/-! Consuming the word at the head of the input. -/

@[simp] theorem State.consume_mode : s.consume.mode = s.mode := rfl
@[simp] theorem State.consume_clockUs : s.consume.clockUs = s.clockUs := rfl
@[simp] theorem State.consume_counter : s.consume.counter = s.counter := rfl
@[simp] theorem State.consume_redrawFlag : s.consume.redrawFlag = s.redrawFlag := rfl
@[simp] theorem State.consume_bootPending : s.consume.bootPending = s.bootPending := rfl
@[simp] theorem State.consume_lastAMs : s.consume.lastAMs = s.lastAMs := rfl
@[simp] theorem State.consume_lastBMs : s.consume.lastBMs = s.lastBMs := rfl
@[simp] theorem State.consume_buf : s.consume.buf = s.buf := rfl
@[simp] theorem State.consume_encPhase : s.consume.encPhase = s.encPhase := rfl
@[simp] theorem State.consume_encK : s.consume.encK = s.encK := rfl
@[simp] theorem State.consume_latchStartUs : s.consume.latchStartUs = s.latchStartUs := rfl
@[simp] theorem State.consume_faultCode : s.consume.faultCode = s.faultCode := rfl
@[simp] theorem State.consume_out : s.consume.out = s.out := rfl
@[simp] theorem State.consume_frames : s.consume.frames = s.frames := rfl
@[simp] theorem State.consume_input : s.consume.input = s.input.tail := rfl

/-! Fault entry. -/

@[simp] theorem State.enterFault_mode (f : FaultKind) : (s.enterFault f).mode = .fault := rfl
@[simp] theorem State.enterFault_clockUs (f : FaultKind) : (s.enterFault f).clockUs = s.clockUs := rfl
@[simp] theorem State.enterFault_counter (f : FaultKind) : (s.enterFault f).counter = s.counter := rfl
@[simp] theorem State.enterFault_redrawFlag (f : FaultKind) : (s.enterFault f).redrawFlag = s.redrawFlag := rfl
@[simp] theorem State.enterFault_bootPending (f : FaultKind) : (s.enterFault f).bootPending = s.bootPending := rfl
@[simp] theorem State.enterFault_lastAMs (f : FaultKind) : (s.enterFault f).lastAMs = s.lastAMs := rfl
@[simp] theorem State.enterFault_lastBMs (f : FaultKind) : (s.enterFault f).lastBMs = s.lastBMs := rfl
@[simp] theorem State.enterFault_buf (f : FaultKind) : (s.enterFault f).buf = s.buf := rfl
@[simp] theorem State.enterFault_encPhase (f : FaultKind) : (s.enterFault f).encPhase = s.encPhase := rfl
@[simp] theorem State.enterFault_encK (f : FaultKind) : (s.enterFault f).encK = s.encK := rfl
@[simp] theorem State.enterFault_latchStartUs (f : FaultKind) : (s.enterFault f).latchStartUs = s.latchStartUs := rfl
@[simp] theorem State.enterFault_faultCode (f : FaultKind) : (s.enterFault f).faultCode = if s.faultCode = 0#2 then f.code else s.faultCode := rfl
@[simp] theorem State.enterFault_out (f : FaultKind) : (s.enterFault f).out = s.out := rfl
@[simp] theorem State.enterFault_frames (f : FaultKind) : (s.enterFault f).frames = s.frames := rfl
@[simp] theorem State.enterFault_input (f : FaultKind) : (s.enterFault f).input = s.input := rfl

/-! Writing one byte to the sink. -/

@[simp] theorem State.sinkWrite_mode (b : Byte) : (s.sinkWrite b).mode = s.mode := rfl
@[simp] theorem State.sinkWrite_clockUs (b : Byte) : (s.sinkWrite b).clockUs = s.clockUs := rfl
@[simp] theorem State.sinkWrite_counter (b : Byte) : (s.sinkWrite b).counter = s.counter := rfl
@[simp] theorem State.sinkWrite_redrawFlag (b : Byte) : (s.sinkWrite b).redrawFlag = s.redrawFlag := rfl
@[simp] theorem State.sinkWrite_bootPending (b : Byte) : (s.sinkWrite b).bootPending = s.bootPending := rfl
@[simp] theorem State.sinkWrite_lastAMs (b : Byte) : (s.sinkWrite b).lastAMs = s.lastAMs := rfl
@[simp] theorem State.sinkWrite_lastBMs (b : Byte) : (s.sinkWrite b).lastBMs = s.lastBMs := rfl
@[simp] theorem State.sinkWrite_buf (b : Byte) : (s.sinkWrite b).buf = s.buf := rfl
@[simp] theorem State.sinkWrite_encPhase (b : Byte) : (s.sinkWrite b).encPhase = s.encPhase := rfl
@[simp] theorem State.sinkWrite_encK (b : Byte) : (s.sinkWrite b).encK = s.encK := rfl
@[simp] theorem State.sinkWrite_latchStartUs (b : Byte) : (s.sinkWrite b).latchStartUs = s.latchStartUs := rfl
@[simp] theorem State.sinkWrite_faultCode (b : Byte) : (s.sinkWrite b).faultCode = s.faultCode := rfl
@[simp] theorem State.sinkWrite_out (b : Byte) : (s.sinkWrite b).out = s.out ++ [b] := rfl
@[simp] theorem State.sinkWrite_frames (b : Byte) : (s.sinkWrite b).frames = s.frames := rfl
@[simp] theorem State.sinkWrite_input (b : Byte) : (s.sinkWrite b).input = s.input := rfl

/-! Time advancing. -/

@[simp] theorem State.advanceClock_mode (dt : Nat) : (s.advanceClock dt).mode = s.mode := rfl
@[simp] theorem State.advanceClock_clockUs (dt : Nat) : (s.advanceClock dt).clockUs = s.clockUs + dt := rfl
@[simp] theorem State.advanceClock_counter (dt : Nat) : (s.advanceClock dt).counter = s.counter := rfl
@[simp] theorem State.advanceClock_redrawFlag (dt : Nat) : (s.advanceClock dt).redrawFlag = s.redrawFlag := rfl
@[simp] theorem State.advanceClock_bootPending (dt : Nat) : (s.advanceClock dt).bootPending = s.bootPending := rfl
@[simp] theorem State.advanceClock_lastAMs (dt : Nat) : (s.advanceClock dt).lastAMs = s.lastAMs := rfl
@[simp] theorem State.advanceClock_lastBMs (dt : Nat) : (s.advanceClock dt).lastBMs = s.lastBMs := rfl
@[simp] theorem State.advanceClock_buf (dt : Nat) : (s.advanceClock dt).buf = s.buf := rfl
@[simp] theorem State.advanceClock_encPhase (dt : Nat) : (s.advanceClock dt).encPhase = s.encPhase := rfl
@[simp] theorem State.advanceClock_encK (dt : Nat) : (s.advanceClock dt).encK = s.encK := rfl
@[simp] theorem State.advanceClock_latchStartUs (dt : Nat) : (s.advanceClock dt).latchStartUs = s.latchStartUs := rfl
@[simp] theorem State.advanceClock_faultCode (dt : Nat) : (s.advanceClock dt).faultCode = s.faultCode := rfl
@[simp] theorem State.advanceClock_out (dt : Nat) : (s.advanceClock dt).out = s.out := rfl
@[simp] theorem State.advanceClock_frames (dt : Nat) : (s.advanceClock dt).frames = s.frames := rfl
@[simp] theorem State.advanceClock_input (dt : Nat) : (s.advanceClock dt).input = s.input := rfl

/-! An accepted edge of A. -/

@[simp] theorem State.acceptA_mode (now : Nat) (v : BitVec 4) : (s.acceptA now v).mode = s.mode := rfl
@[simp] theorem State.acceptA_clockUs (now : Nat) (v : BitVec 4) : (s.acceptA now v).clockUs = s.clockUs := rfl
@[simp] theorem State.acceptA_counter (now : Nat) (v : BitVec 4) : (s.acceptA now v).counter = v := rfl
@[simp] theorem State.acceptA_redrawFlag (now : Nat) (v : BitVec 4) : (s.acceptA now v).redrawFlag = s.redrawFlag := rfl
@[simp] theorem State.acceptA_bootPending (now : Nat) (v : BitVec 4) : (s.acceptA now v).bootPending = s.bootPending := rfl
@[simp] theorem State.acceptA_lastAMs (now : Nat) (v : BitVec 4) : (s.acceptA now v).lastAMs = now := rfl
@[simp] theorem State.acceptA_lastBMs (now : Nat) (v : BitVec 4) : (s.acceptA now v).lastBMs = s.lastBMs := rfl
@[simp] theorem State.acceptA_buf (now : Nat) (v : BitVec 4) : (s.acceptA now v).buf = s.buf := rfl
@[simp] theorem State.acceptA_encPhase (now : Nat) (v : BitVec 4) : (s.acceptA now v).encPhase = s.encPhase := rfl
@[simp] theorem State.acceptA_encK (now : Nat) (v : BitVec 4) : (s.acceptA now v).encK = s.encK := rfl
@[simp] theorem State.acceptA_latchStartUs (now : Nat) (v : BitVec 4) : (s.acceptA now v).latchStartUs = s.latchStartUs := rfl
@[simp] theorem State.acceptA_faultCode (now : Nat) (v : BitVec 4) : (s.acceptA now v).faultCode = s.faultCode := rfl
@[simp] theorem State.acceptA_out (now : Nat) (v : BitVec 4) : (s.acceptA now v).out = s.out := rfl
@[simp] theorem State.acceptA_frames (now : Nat) (v : BitVec 4) : (s.acceptA now v).frames = s.frames := rfl
@[simp] theorem State.acceptA_input (now : Nat) (v : BitVec 4) : (s.acceptA now v).input = s.input := rfl

/-! An accepted edge of B. -/

@[simp] theorem State.acceptB_mode (now : Nat) (v : BitVec 4) : (s.acceptB now v).mode = s.mode := rfl
@[simp] theorem State.acceptB_clockUs (now : Nat) (v : BitVec 4) : (s.acceptB now v).clockUs = s.clockUs := rfl
@[simp] theorem State.acceptB_counter (now : Nat) (v : BitVec 4) : (s.acceptB now v).counter = v := rfl
@[simp] theorem State.acceptB_redrawFlag (now : Nat) (v : BitVec 4) : (s.acceptB now v).redrawFlag = s.redrawFlag := rfl
@[simp] theorem State.acceptB_bootPending (now : Nat) (v : BitVec 4) : (s.acceptB now v).bootPending = s.bootPending := rfl
@[simp] theorem State.acceptB_lastAMs (now : Nat) (v : BitVec 4) : (s.acceptB now v).lastAMs = s.lastAMs := rfl
@[simp] theorem State.acceptB_lastBMs (now : Nat) (v : BitVec 4) : (s.acceptB now v).lastBMs = now := rfl
@[simp] theorem State.acceptB_buf (now : Nat) (v : BitVec 4) : (s.acceptB now v).buf = s.buf := rfl
@[simp] theorem State.acceptB_encPhase (now : Nat) (v : BitVec 4) : (s.acceptB now v).encPhase = s.encPhase := rfl
@[simp] theorem State.acceptB_encK (now : Nat) (v : BitVec 4) : (s.acceptB now v).encK = s.encK := rfl
@[simp] theorem State.acceptB_latchStartUs (now : Nat) (v : BitVec 4) : (s.acceptB now v).latchStartUs = s.latchStartUs := rfl
@[simp] theorem State.acceptB_faultCode (now : Nat) (v : BitVec 4) : (s.acceptB now v).faultCode = s.faultCode := rfl
@[simp] theorem State.acceptB_out (now : Nat) (v : BitVec 4) : (s.acceptB now v).out = s.out := rfl
@[simp] theorem State.acceptB_frames (now : Nat) (v : BitVec 4) : (s.acceptB now v).frames = s.frames := rfl
@[simp] theorem State.acceptB_input (now : Nat) (v : BitVec 4) : (s.acceptB now v).input = s.input := rfl

/-! The update-mode request. -/

@[simp] theorem State.enterUpdate_mode : s.enterUpdate.mode = .update := rfl
@[simp] theorem State.enterUpdate_clockUs : s.enterUpdate.clockUs = s.clockUs := rfl
@[simp] theorem State.enterUpdate_counter : s.enterUpdate.counter = s.counter := rfl
@[simp] theorem State.enterUpdate_redrawFlag : s.enterUpdate.redrawFlag = s.redrawFlag := rfl
@[simp] theorem State.enterUpdate_bootPending : s.enterUpdate.bootPending = s.bootPending := rfl
@[simp] theorem State.enterUpdate_lastAMs : s.enterUpdate.lastAMs = s.lastAMs := rfl
@[simp] theorem State.enterUpdate_lastBMs : s.enterUpdate.lastBMs = s.lastBMs := rfl
@[simp] theorem State.enterUpdate_buf : s.enterUpdate.buf = s.buf := rfl
@[simp] theorem State.enterUpdate_encPhase : s.enterUpdate.encPhase = s.encPhase := rfl
@[simp] theorem State.enterUpdate_encK : s.enterUpdate.encK = s.encK := rfl
@[simp] theorem State.enterUpdate_latchStartUs : s.enterUpdate.latchStartUs = s.latchStartUs := rfl
@[simp] theorem State.enterUpdate_faultCode : s.enterUpdate.faultCode = s.faultCode := rfl
@[simp] theorem State.enterUpdate_out : s.enterUpdate.out = s.out := rfl
@[simp] theorem State.enterUpdate_frames : s.enterUpdate.frames = s.frames := rfl
@[simp] theorem State.enterUpdate_input : s.enterUpdate.input = s.input := rfl

/-! Starting a flush. -/

@[simp] theorem State.startFrame_mode (pixels : List Colour) : (s.startFrame pixels).mode = s.mode := rfl
@[simp] theorem State.startFrame_clockUs (pixels : List Colour) : (s.startFrame pixels).clockUs = s.clockUs := rfl
@[simp] theorem State.startFrame_counter (pixels : List Colour) : (s.startFrame pixels).counter = s.counter := rfl
@[simp] theorem State.startFrame_redrawFlag (pixels : List Colour) : (s.startFrame pixels).redrawFlag = s.redrawFlag := rfl
@[simp] theorem State.startFrame_bootPending (pixels : List Colour) : (s.startFrame pixels).bootPending = s.bootPending := rfl
@[simp] theorem State.startFrame_lastAMs (pixels : List Colour) : (s.startFrame pixels).lastAMs = s.lastAMs := rfl
@[simp] theorem State.startFrame_lastBMs (pixels : List Colour) : (s.startFrame pixels).lastBMs = s.lastBMs := rfl
@[simp] theorem State.startFrame_buf (pixels : List Colour) : (s.startFrame pixels).buf = pixels := rfl
@[simp] theorem State.startFrame_encPhase (pixels : List Colour) : (s.startFrame pixels).encPhase = .send := rfl
@[simp] theorem State.startFrame_encK (pixels : List Colour) : (s.startFrame pixels).encK = 0#7 := rfl
@[simp] theorem State.startFrame_latchStartUs (pixels : List Colour) : (s.startFrame pixels).latchStartUs = s.latchStartUs := rfl
@[simp] theorem State.startFrame_faultCode (pixels : List Colour) : (s.startFrame pixels).faultCode = s.faultCode := rfl
@[simp] theorem State.startFrame_out (pixels : List Colour) : (s.startFrame pixels).out = s.out := rfl
@[simp] theorem State.startFrame_frames (pixels : List Colour) : (s.startFrame pixels).frames = s.frames + 1 := rfl
@[simp] theorem State.startFrame_input (pixels : List Colour) : (s.startFrame pixels).input = s.input := rfl

/-! The next byte of the frame. -/

@[simp] theorem State.nextByte_mode : s.nextByte.mode = s.mode := rfl
@[simp] theorem State.nextByte_clockUs : s.nextByte.clockUs = s.clockUs := rfl
@[simp] theorem State.nextByte_counter : s.nextByte.counter = s.counter := rfl
@[simp] theorem State.nextByte_redrawFlag : s.nextByte.redrawFlag = s.redrawFlag := rfl
@[simp] theorem State.nextByte_bootPending : s.nextByte.bootPending = s.bootPending := rfl
@[simp] theorem State.nextByte_lastAMs : s.nextByte.lastAMs = s.lastAMs := rfl
@[simp] theorem State.nextByte_lastBMs : s.nextByte.lastBMs = s.lastBMs := rfl
@[simp] theorem State.nextByte_buf : s.nextByte.buf = s.buf := rfl
@[simp] theorem State.nextByte_encPhase : s.nextByte.encPhase = s.encPhase := rfl
@[simp] theorem State.nextByte_encK : s.nextByte.encK = nextIndex s.encK := rfl
@[simp] theorem State.nextByte_latchStartUs : s.nextByte.latchStartUs = s.latchStartUs := rfl
@[simp] theorem State.nextByte_faultCode : s.nextByte.faultCode = s.faultCode := rfl
@[simp] theorem State.nextByte_out : s.nextByte.out = s.out := rfl
@[simp] theorem State.nextByte_frames : s.nextByte.frames = s.frames := rfl
@[simp] theorem State.nextByte_input : s.nextByte.input = s.input := rfl

/-! Starting the reset-delay timer. -/

@[simp] theorem State.startLatch_mode : s.startLatch.mode = s.mode := rfl
@[simp] theorem State.startLatch_clockUs : s.startLatch.clockUs = s.clockUs := rfl
@[simp] theorem State.startLatch_counter : s.startLatch.counter = s.counter := rfl
@[simp] theorem State.startLatch_redrawFlag : s.startLatch.redrawFlag = s.redrawFlag := rfl
@[simp] theorem State.startLatch_bootPending : s.startLatch.bootPending = s.bootPending := rfl
@[simp] theorem State.startLatch_lastAMs : s.startLatch.lastAMs = s.lastAMs := rfl
@[simp] theorem State.startLatch_lastBMs : s.startLatch.lastBMs = s.lastBMs := rfl
@[simp] theorem State.startLatch_buf : s.startLatch.buf = s.buf := rfl
@[simp] theorem State.startLatch_encPhase : s.startLatch.encPhase = .latch := rfl
@[simp] theorem State.startLatch_encK : s.startLatch.encK = s.encK := rfl
@[simp] theorem State.startLatch_latchStartUs : s.startLatch.latchStartUs = s.clockUs := rfl
@[simp] theorem State.startLatch_faultCode : s.startLatch.faultCode = s.faultCode := rfl
@[simp] theorem State.startLatch_out : s.startLatch.out = s.out := rfl
@[simp] theorem State.startLatch_frames : s.startLatch.frames = s.frames := rfl
@[simp] theorem State.startLatch_input : s.startLatch.input = s.input := rfl

/-! Releasing the encoder. -/

@[simp] theorem State.releaseLatch_mode : s.releaseLatch.mode = s.mode := rfl
@[simp] theorem State.releaseLatch_clockUs : s.releaseLatch.clockUs = s.clockUs := rfl
@[simp] theorem State.releaseLatch_counter : s.releaseLatch.counter = s.counter := rfl
@[simp] theorem State.releaseLatch_redrawFlag : s.releaseLatch.redrawFlag = s.redrawFlag := rfl
@[simp] theorem State.releaseLatch_bootPending : s.releaseLatch.bootPending = s.bootPending := rfl
@[simp] theorem State.releaseLatch_lastAMs : s.releaseLatch.lastAMs = s.lastAMs := rfl
@[simp] theorem State.releaseLatch_lastBMs : s.releaseLatch.lastBMs = s.lastBMs := rfl
@[simp] theorem State.releaseLatch_buf : s.releaseLatch.buf = s.buf := rfl
@[simp] theorem State.releaseLatch_encPhase : s.releaseLatch.encPhase = .idle := rfl
@[simp] theorem State.releaseLatch_encK : s.releaseLatch.encK = s.encK := rfl
@[simp] theorem State.releaseLatch_latchStartUs : s.releaseLatch.latchStartUs = s.latchStartUs := rfl
@[simp] theorem State.releaseLatch_faultCode : s.releaseLatch.faultCode = s.faultCode := rfl
@[simp] theorem State.releaseLatch_out : s.releaseLatch.out = s.out := rfl
@[simp] theorem State.releaseLatch_frames : s.releaseLatch.frames = s.frames := rfl
@[simp] theorem State.releaseLatch_input : s.releaseLatch.input = s.input := rfl

/-! The register values of RESET. -/

@[simp] theorem State.resetRegisters_mode (cfg : Config) : (s.resetRegisters cfg).mode = .run := rfl
@[simp] theorem State.resetRegisters_clockUs (cfg : Config) : (s.resetRegisters cfg).clockUs = 0 := rfl
@[simp] theorem State.resetRegisters_counter (cfg : Config) : (s.resetRegisters cfg).counter = 0#4 := rfl
@[simp] theorem State.resetRegisters_redrawFlag (cfg : Config) : (s.resetRegisters cfg).redrawFlag = false := rfl
@[simp] theorem State.resetRegisters_bootPending (cfg : Config) : (s.resetRegisters cfg).bootPending = true := rfl
@[simp] theorem State.resetRegisters_lastAMs (cfg : Config) : (s.resetRegisters cfg).lastAMs = 0 := rfl
@[simp] theorem State.resetRegisters_lastBMs (cfg : Config) : (s.resetRegisters cfg).lastBMs = 0 := rfl
@[simp] theorem State.resetRegisters_buf (cfg : Config) : (s.resetRegisters cfg).buf = bufClear cfg.nCells := rfl
@[simp] theorem State.resetRegisters_encPhase (cfg : Config) : (s.resetRegisters cfg).encPhase = .idle := rfl
@[simp] theorem State.resetRegisters_encK (cfg : Config) : (s.resetRegisters cfg).encK = 0#7 := rfl
@[simp] theorem State.resetRegisters_latchStartUs (cfg : Config) : (s.resetRegisters cfg).latchStartUs = 0 := rfl
@[simp] theorem State.resetRegisters_faultCode (cfg : Config) : (s.resetRegisters cfg).faultCode = 0#2 := rfl
@[simp] theorem State.resetRegisters_out (cfg : Config) : (s.resetRegisters cfg).out = s.out := rfl
@[simp] theorem State.resetRegisters_frames (cfg : Config) : (s.resetRegisters cfg).frames = s.frames := rfl
@[simp] theorem State.resetRegisters_input (cfg : Config) : (s.resetRegisters cfg).input = s.input := rfl

/-! Asking for a redraw. -/

@[simp] theorem State.requestRedraw_mode (ask : Bool) : (s.requestRedraw ask).mode = s.mode := rfl
@[simp] theorem State.requestRedraw_clockUs (ask : Bool) : (s.requestRedraw ask).clockUs = s.clockUs := rfl
@[simp] theorem State.requestRedraw_counter (ask : Bool) : (s.requestRedraw ask).counter = s.counter := rfl
@[simp] theorem State.requestRedraw_redrawFlag (ask : Bool) : (s.requestRedraw ask).redrawFlag = (s.redrawFlag || ask) := rfl
@[simp] theorem State.requestRedraw_bootPending (ask : Bool) : (s.requestRedraw ask).bootPending = s.bootPending := rfl
@[simp] theorem State.requestRedraw_lastAMs (ask : Bool) : (s.requestRedraw ask).lastAMs = s.lastAMs := rfl
@[simp] theorem State.requestRedraw_lastBMs (ask : Bool) : (s.requestRedraw ask).lastBMs = s.lastBMs := rfl
@[simp] theorem State.requestRedraw_buf (ask : Bool) : (s.requestRedraw ask).buf = s.buf := rfl
@[simp] theorem State.requestRedraw_encPhase (ask : Bool) : (s.requestRedraw ask).encPhase = s.encPhase := rfl
@[simp] theorem State.requestRedraw_encK (ask : Bool) : (s.requestRedraw ask).encK = s.encK := rfl
@[simp] theorem State.requestRedraw_latchStartUs (ask : Bool) : (s.requestRedraw ask).latchStartUs = s.latchStartUs := rfl
@[simp] theorem State.requestRedraw_faultCode (ask : Bool) : (s.requestRedraw ask).faultCode = s.faultCode := rfl
@[simp] theorem State.requestRedraw_out (ask : Bool) : (s.requestRedraw ask).out = s.out := rfl
@[simp] theorem State.requestRedraw_frames (ask : Bool) : (s.requestRedraw ask).frames = s.frames := rfl
@[simp] theorem State.requestRedraw_input (ask : Bool) : (s.requestRedraw ask).input = s.input := rfl

/-! The reset half of the take-and-reset. -/

@[simp] theorem State.clearPending_mode : s.clearPending.mode = s.mode := rfl
@[simp] theorem State.clearPending_clockUs : s.clearPending.clockUs = s.clockUs := rfl
@[simp] theorem State.clearPending_counter : s.clearPending.counter = s.counter := rfl
@[simp] theorem State.clearPending_redrawFlag : s.clearPending.redrawFlag = false := rfl
@[simp] theorem State.clearPending_bootPending : s.clearPending.bootPending = false := rfl
@[simp] theorem State.clearPending_lastAMs : s.clearPending.lastAMs = s.lastAMs := rfl
@[simp] theorem State.clearPending_lastBMs : s.clearPending.lastBMs = s.lastBMs := rfl
@[simp] theorem State.clearPending_buf : s.clearPending.buf = s.buf := rfl
@[simp] theorem State.clearPending_encPhase : s.clearPending.encPhase = s.encPhase := rfl
@[simp] theorem State.clearPending_encK : s.clearPending.encK = s.encK := rfl
@[simp] theorem State.clearPending_latchStartUs : s.clearPending.latchStartUs = s.latchStartUs := rfl
@[simp] theorem State.clearPending_faultCode : s.clearPending.faultCode = s.faultCode := rfl
@[simp] theorem State.clearPending_out : s.clearPending.out = s.out := rfl
@[simp] theorem State.clearPending_frames : s.clearPending.frames = s.frames := rfl
@[simp] theorem State.clearPending_input : s.clearPending.input = s.input := rfl

/-! A word delivered after those pending. -/

@[simp] theorem State.deliver_mode (w : Word) : (s.deliver w).mode = s.mode := rfl
@[simp] theorem State.deliver_clockUs (w : Word) : (s.deliver w).clockUs = s.clockUs := rfl
@[simp] theorem State.deliver_counter (w : Word) : (s.deliver w).counter = s.counter := rfl
@[simp] theorem State.deliver_redrawFlag (w : Word) : (s.deliver w).redrawFlag = s.redrawFlag := rfl
@[simp] theorem State.deliver_bootPending (w : Word) : (s.deliver w).bootPending = s.bootPending := rfl
@[simp] theorem State.deliver_lastAMs (w : Word) : (s.deliver w).lastAMs = s.lastAMs := rfl
@[simp] theorem State.deliver_lastBMs (w : Word) : (s.deliver w).lastBMs = s.lastBMs := rfl
@[simp] theorem State.deliver_buf (w : Word) : (s.deliver w).buf = s.buf := rfl
@[simp] theorem State.deliver_encPhase (w : Word) : (s.deliver w).encPhase = s.encPhase := rfl
@[simp] theorem State.deliver_encK (w : Word) : (s.deliver w).encK = s.encK := rfl
@[simp] theorem State.deliver_latchStartUs (w : Word) : (s.deliver w).latchStartUs = s.latchStartUs := rfl
@[simp] theorem State.deliver_faultCode (w : Word) : (s.deliver w).faultCode = s.faultCode := rfl
@[simp] theorem State.deliver_out (w : Word) : (s.deliver w).out = s.out := rfl
@[simp] theorem State.deliver_frames (w : Word) : (s.deliver w).frames = s.frames := rfl
@[simp] theorem State.deliver_input (w : Word) : (s.deliver w).input = s.input ++ [w] := rfl

/-! A word scheduled ahead of those pending. -/

@[simp] theorem State.deliverFirst_mode (w : Word) : (s.deliverFirst w).mode = s.mode := rfl
@[simp] theorem State.deliverFirst_clockUs (w : Word) : (s.deliverFirst w).clockUs = s.clockUs := rfl
@[simp] theorem State.deliverFirst_counter (w : Word) : (s.deliverFirst w).counter = s.counter := rfl
@[simp] theorem State.deliverFirst_redrawFlag (w : Word) : (s.deliverFirst w).redrawFlag = s.redrawFlag := rfl
@[simp] theorem State.deliverFirst_bootPending (w : Word) : (s.deliverFirst w).bootPending = s.bootPending := rfl
@[simp] theorem State.deliverFirst_lastAMs (w : Word) : (s.deliverFirst w).lastAMs = s.lastAMs := rfl
@[simp] theorem State.deliverFirst_lastBMs (w : Word) : (s.deliverFirst w).lastBMs = s.lastBMs := rfl
@[simp] theorem State.deliverFirst_buf (w : Word) : (s.deliverFirst w).buf = s.buf := rfl
@[simp] theorem State.deliverFirst_encPhase (w : Word) : (s.deliverFirst w).encPhase = s.encPhase := rfl
@[simp] theorem State.deliverFirst_encK (w : Word) : (s.deliverFirst w).encK = s.encK := rfl
@[simp] theorem State.deliverFirst_latchStartUs (w : Word) : (s.deliverFirst w).latchStartUs = s.latchStartUs := rfl
@[simp] theorem State.deliverFirst_faultCode (w : Word) : (s.deliverFirst w).faultCode = s.faultCode := rfl
@[simp] theorem State.deliverFirst_out (w : Word) : (s.deliverFirst w).out = s.out := rfl
@[simp] theorem State.deliverFirst_frames (w : Word) : (s.deliverFirst w).frames = s.frames := rfl
@[simp] theorem State.deliverFirst_input (w : Word) : (s.deliverFirst w).input = w :: s.input := rfl

end

end Sys2Proof.Machine
end

