-- ==== Sys2Proof/Laws/Ops.lean ====
section
/-! SUPPORT. For each shared operation, once, all it can do: settling an effect, fetching, the tests and values of
Operands.lean, the buffer operations, and the effect of each event. -/

namespace Sys2Proof.Machine

/-! Settling an effect. -/

@[simp] theorem settle_took (s t : State) : settle s (.took t) = .next t.consume := rfl
@[simp] theorem settle_hold (s : State) : settle s .hold = .next s := rfl
@[simp] theorem settle_raised (s : State) (f : FaultKind) :
    settle s (.raised f) = .next (s.enterFault f).consume := rfl
@[simp] theorem stateAfter_took (s t : State) : (Effect.took t).stateAfter s = t := rfl
@[simp] theorem stateAfter_hold (s : State) : Effect.hold.stateAfter s = s := rfl
@[simp] theorem stateAfter_raised (s : State) (f : FaultKind) : (Effect.raised f).stateAfter s = s.enterFault f := rfl
@[simp] theorem isHold_took (t : State) : (Effect.took t).isHold = false := rfl
@[simp] theorem isHold_hold : Effect.hold.isHold = true := rfl
@[simp] theorem isHold_raised (f : FaultKind) : (Effect.raised f).isHold = false := rfl

/-- A settled effect is a next state: the state as it was for a hold, else what the effect leaves with its word
consumed. -/
theorem settle_cases (s : State) (e : Effect) :
    (e = .hold ∧ settle s e = .next s) ∨ (e.isHold = false ∧ settle s e = .next (e.stateAfter s).consume) := by
  cases e <;> simp

/-- Every arm settles the effect of its event under the hardware's configuration. -/
theorem exec_eq_settle (i : Instr) (s : State) : exec i s = settle s (apply Config.hardware i s) := by
  cases i <;> rfl

/-- All a step can do: nothing is delivered, an event is settled, or an illegal word raises its fault. -/
theorem step_cases (s : State) :
    (s.input = [] ∧ step s = .next s) ∨
    (∃ w ws i, s.input = w :: ws ∧ decode w = .ok i ∧ step s = exec i s) ∨
    (∃ w ws e, s.input = w :: ws ∧ decode w = .error e ∧ step s = .next (s.enterFault .illegalEvent).consume) := by
  cases hin : s.input with
  | nil => left; simp [step, State.fetch, hin]
  | cons w ws =>
    right
    cases hd : decode w with
    | ok i => left; exact ⟨w, ws, i, rfl, hd, by simp [step, State.fetch, hin, hd]⟩
    | error e => right; exact ⟨w, ws, e, rfl, hd, by simp [step, State.fetch, hin, hd, execIllegal]⟩

/-! The tests. -/

theorem intervalPassed_iff (cfg : Config) (now last : Nat) :
    intervalPassed cfg now last = true ↔ cfg.debounceMs ≤ now - last := by
  simp [intervalPassed]

theorem acceptsA_iff (cfg : Config) (s : State) :
    s.acceptsA cfg = true ↔ s.mode = .run ∧ cfg.debounceMs ≤ s.nowMs - s.lastAMs := by
  simp [State.acceptsA, intervalPassed_iff]

theorem acceptsB_iff (cfg : Config) (s : State) :
    s.acceptsB cfg = true ↔ s.mode = .run ∧ cfg.debounceMs ≤ s.nowMs - s.lastBMs := by
  simp [State.acceptsB, intervalPassed_iff]

theorem renderHeld_false_iff (s : State) : s.renderHeld = false ↔ s.mode = .run ∧ s.encPhase = .idle := by
  simp [State.renderHeld]

theorem encByteHeld_false_iff (s : State) : s.encByteHeld = false ↔ s.mode = .run ∧ s.encPhase = .send := by
  simp [State.encByteHeld]

theorem latchEndHeld_false_iff (cfg : Config) (s : State) :
    s.latchEndHeld cfg = false ↔
      s.mode = .run ∧ s.encPhase = .latch ∧ cfg.resetUs ≤ s.clockUs - s.latchStartUs := by
  simp [State.latchEndHeld, State.latchElapsed, and_assoc]

/-! The values. -/

/-- On a digit below 9 the saturating increment is the successor, at 9 it stays. -/
theorem satInc_of_le (v : BitVec 4) (h : v ≤ 9#4) : satInc v = if v < 9#4 then v + 1#4 else v := by
  simp [satInc, h]

/-- On a digit above 0 the saturating decrement is the predecessor, at 0 it stays. -/
theorem satDec_of_le (v : BitVec 4) (h : v ≤ 9#4) : satDec v = if v > 0#4 then v - 1#4 else v := by
  simp [satDec, h]

theorem digitOf_of_le (v : BitVec 4) (h : v.toNat < 10) : digitOf v = some ⟨v.toNat, h⟩ := by
  simp [digitOf, h]

theorem digitOf_of_gt (v : BitVec 4) (h : 10 ≤ v.toNat) : digitOf v = none := by
  simp [digitOf, Nat.not_lt.mpr h]

/-- A byte of a cell the buffer has is one of the three channels of that cell. -/
theorem encByteAt_of_cell (buf : List Colour) (k : BitVec 7) (c : Colour) (h : buf[k.toNat / 3]? = some c) :
    encByteAt buf k = channelGRB c (k.toNat % 3) := by
  simp [encByteAt, h]

@[simp] theorem bufClear_length (n : Nat) : (bufClear n).length = n := by simp [bufClear]
@[simp] theorem bufSet_length (i : Nat) (c : Colour) (buf : List Colour) : (bufSet i c buf).length = buf.length := by
  simp [bufSet]
@[simp] theorem glyphPixels_length (n : Nat) (g : Glyph) : (glyphPixels n g).length = n := by simp [glyphPixels]
@[simp] theorem frameBuffer_length (cfg : Config) (d : Fin 10) : (frameBuffer cfg d).length = cfg.nCells := by
  simp [frameBuffer]

/-! The effect of each event: the cases it has, with their conditions. -/

theorem applyEdgeA_cases (cfg : Config) (s : State) :
    (s.acceptsA cfg = true ∧ applyEdgeA cfg s = .took (s.acceptedA cfg)) ∨
    (s.acceptsA cfg = false ∧ applyEdgeA cfg s = .took s) := by
  cases h : s.acceptsA cfg <;> simp [applyEdgeA, h]

theorem applyEdgeB_cases (cfg : Config) (s : State) :
    (s.acceptsB cfg = true ∧ applyEdgeB cfg s = .took (s.acceptedB cfg)) ∨
    (s.acceptsB cfg = false ∧ applyEdgeB cfg s = .took s) := by
  cases h : s.acceptsB cfg <;> simp [applyEdgeB, h]

theorem applyEdgeC_cases (s : State) :
    (s.mode = .run ∧ applyEdgeC s = .took s.enterUpdate) ∨ (s.mode ≠ .run ∧ applyEdgeC s = .took s) := by
  by_cases h : s.mode = .run <;> simp [applyEdgeC, h]

theorem applyRender_cases (cfg : Config) (s : State) :
    (s.renderHeld = true ∧ applyRender cfg s = .hold) ∨
    (s.renderHeld = false ∧ s.drawPending = false ∧ applyRender cfg s = .took s.clearPending) ∨
    (∃ d, s.draws d ∧ applyRender cfg s = .took (s.clearPending.startFrame (frameBuffer cfg d))) ∨
    (s.renderHeld = false ∧ s.drawPending = true ∧ digitOf s.counter = none ∧
      applyRender cfg s = .raised .digitRange) := by
  cases h : s.renderHeld with
  | true => left; simp [applyRender, h]
  | false =>
    right
    cases hp : s.drawPending with
    | false => left; simp [applyRender, h, hp]
    | true =>
      right
      cases hd : digitOf s.counter with
      | none => right; simp [applyRender, h, hp, glyphFor, hd]
      | some d => left; exact ⟨d, ⟨h, hp, hd⟩, by simp [applyRender, h, hp, glyphFor, hd, frameBuffer]⟩

/-- The next index of a frame, for every index but 127: the successor, without wrap-around. -/
theorem nextIndex_toNat {k : BitVec 7} (h : k.toNat < 127) : (nextIndex k).toNat = k.toNat + 1 := by
  have hk : k ≠ 127#7 := by rintro rfl; exact absurd h (by decide)
  rw [nextIndex, if_neg hk, BitVec.toNat_add]
  exact Nat.mod_eq_of_lt (by simp; omega)

/-- The next index below 127 as the sum of R106. -/
theorem nextIndex_eq_add {k : BitVec 7} (h : k.toNat < 127) : nextIndex k = k + 1#7 := by
  rw [nextIndex, if_neg]
  rintro rfl
  exact absurd h (by decide)

theorem applyEncByte_cases (cfg : Config) (s : State) :
    (s.encByteHeld = true ∧ applyEncByte cfg s = .hold) ∨
    (s.encByteHeld = false ∧ isLastByte cfg s.encK = true ∧
      applyEncByte cfg s = .took (s.sinkWrite (encByteAt s.buf s.encK)).startLatch) ∨
    (s.encByteHeld = false ∧ isLastByte cfg s.encK = false ∧
      applyEncByte cfg s = .took (s.sinkWrite (encByteAt s.buf s.encK)).nextByte) := by
  cases h : s.encByteHeld <;> cases hl : isLastByte cfg s.encK <;> simp [applyEncByte, h, State.afterByte, hl]

theorem applyLatchEnd_cases (cfg : Config) (s : State) :
    (s.latchEndHeld cfg = true ∧ applyLatchEnd cfg s = .hold) ∨
    (s.latchEndHeld cfg = false ∧ applyLatchEnd cfg s = .took s.releaseLatch) := by
  cases h : s.latchEndHeld cfg <;> simp [applyLatchEnd, h]

theorem applyReset_cases (cfg : Config) (chOk : Bool) (s : State) :
    (chOk = true ∧ applyReset cfg chOk s = .took (s.resetRegisters cfg)) ∨
    (chOk = false ∧ applyReset cfg chOk s = .took ((s.resetRegisters cfg).enterFault .initNoChannel)) := by
  cases chOk <;> simp [applyReset]

end Sys2Proof.Machine
end

