-- ==== Sys2Proof/Laws/Runs.lean ====
section
/-! SUPPORT. Runs: delivering words one after the other, and what every event leaves alone. -/

namespace Sys2Proof.Machine

@[simp] theorem deliverAll_nil (cfg : Config) (s : State) : deliverAll cfg [] s = s := rfl
@[simp] theorem deliverAll_cons (cfg : Config) (w : Word) (ws : List Word) (s : State) :
    deliverAll cfg (w :: ws) s = deliverAll cfg ws (afterWord cfg w s) := rfl
@[simp] theorem trace_zero (cfg : Config) (env : Nat → Word) (s : State) : trace cfg env s 0 = s := rfl
@[simp] theorem trace_succ (cfg : Config) (env : Nat → Word) (s : State) (n : Nat) :
    trace cfg env s (n + 1) = afterWord cfg (env n) (trace cfg env s n) := rfl

/-- Delivering two lists in turn is delivering their concatenation. -/
theorem deliverAll_append (cfg : Config) (us ws : List Word) (s : State) :
    deliverAll cfg (us ++ ws) s = deliverAll cfg ws (deliverAll cfg us s) := by
  induction us generalizing s with
  | nil => rfl
  | cons u us ih => simp [ih]

/-- A relation that every delivered word keeps holds between the two ends of a run. -/
theorem deliverAll_keeps (cfg : Config) (ok : Word → Prop) (R : State → State → Prop) (refl : ∀ s, R s s)
    (trans : ∀ s t u, R s t → R t u → R s u) (one : ∀ w s, ok w → R s (afterWord cfg w s)) :
    ∀ (ws : List Word) (s : State), (∀ w ∈ ws, ok w) → R s (deliverAll cfg ws s) := by
  intro ws
  induction ws with
  | nil => intro s _; exact refl s
  | cons w ws ih =>
    intro s h
    exact trans _ _ _ (one w s (h w (by simp))) (ih _ (fun v hv => h v (by simp [hv])))

/-- A word that spells no RESET decodes to another event or to none. -/
theorem spellsReset_false_iff (w : Word) :
    spellsReset w = false ↔ ∀ ch, decode w ≠ .ok (.reset ch) := by
  unfold spellsReset spells
  cases hd : decode w with
  | error e => simp
  | ok i => cases i with
    | reset ch => cases ch <;> simp
    | _ => simp

/-- `spells` says that the word decodes to the event. -/
theorem spells_iff (w : Word) (i : Instr) : spells w i = true ↔ decode w = .ok i := by
  unfold spells
  cases hd : decode w <;> simp

/-- What a delivered word leaves is the effect of its event, or the fault of an illegal word. -/
theorem afterWord_cases (cfg : Config) (w : Word) (s : State) :
    (∃ i, decode w = .ok i ∧ afterWord cfg w s = (apply cfg i s).stateAfter s) ∨
    (∃ e, decode w = .error e ∧ afterWord cfg w s = s.enterFault .illegalEvent) := by
  cases hd : decode w with
  | ok i => left; exact ⟨i, rfl, by simp [afterWord, applyWord, hd]⟩
  | error e => right; exact ⟨e, rfl, by simp [afterWord, applyWord, hd]⟩

/-- Applying an event never touches the words still to come. -/
theorem apply_input (cfg : Config) (i : Instr) (s t : State) (h : apply cfg i s = .took t) : t.input = s.input := by
  cases i with
  | edgeA =>
    rcases applyEdgeA_cases cfg s with ⟨_, e⟩ | ⟨_, e⟩ <;>
      (simp only [apply, e, Effect.took.injEq] at h; subst h; rfl)
  | edgeB =>
    rcases applyEdgeB_cases cfg s with ⟨_, e⟩ | ⟨_, e⟩ <;>
      (simp only [apply, e, Effect.took.injEq] at h; subst h; rfl)
  | edgeC =>
    rcases applyEdgeC_cases s with ⟨_, e⟩ | ⟨_, e⟩ <;>
      (simp only [apply, e, Effect.took.injEq] at h; subst h; rfl)
  | tick dt => simp only [apply, applyTick, Effect.took.injEq] at h; subst h; rfl
  | render =>
    rcases applyRender_cases cfg s with ⟨_, e⟩ | ⟨_, _, e⟩ | ⟨d, _, e⟩ | ⟨_, _, _, e⟩ <;>
      simp only [apply, e, Effect.took.injEq, reduceCtorEq] at h <;> (subst h; rfl)
  | encByte =>
    rcases applyEncByte_cases cfg s with ⟨_, e⟩ | ⟨_, _, e⟩ | ⟨_, _, e⟩ <;>
      simp only [apply, e, Effect.took.injEq, reduceCtorEq] at h <;> (subst h; rfl)
  | latchEnd =>
    rcases applyLatchEnd_cases cfg s with ⟨_, e⟩ | ⟨_, e⟩ <;>
      simp only [apply, e, Effect.took.injEq, reduceCtorEq] at h
    subst h
    rfl
  | reset ch =>
    rcases applyReset_cases cfg ch s with ⟨_, e⟩ | ⟨_, e⟩ <;>
      (simp only [apply, e, Effect.took.injEq] at h; subst h; rfl)

end Sys2Proof.Machine
end

