-- ==== Sys2Proof/Laws/Changes.lean ====
section
/-! SUPPORT. Once for the whole machine: every change an event can make, with the condition under which it makes it. -/

namespace Sys2Proof.Machine

/-- `EventChange cfg s i t`: applying the event `i` to `s` leaves `t`. -/
inductive EventChange (cfg : Config) (s : State) : Instr → State → Prop where
  | unchanged (i : Instr) : EventChange cfg s i s
  | acceptedA (h : s.acceptsA cfg = true) : EventChange cfg s .edgeA (s.acceptedA cfg)
  | acceptedB (h : s.acceptsB cfg = true) : EventChange cfg s .edgeB (s.acceptedB cfg)
  | update (h : s.mode = .run) : EventChange cfg s .edgeC s.enterUpdate
  | time (dt : Nat) : EventChange cfg s (.tick dt) (s.advanceClock dt)
  | idle (h : s.renderHeld = false) (hp : s.drawPending = false) : EventChange cfg s .render s.clearPending
  | draw (d : Fin 10) (h : s.draws d) :
    EventChange cfg s .render (s.clearPending.startFrame (frameBuffer cfg d))
  | digitFault (h : s.renderHeld = false) (hp : s.drawPending = true) (hd : digitOf s.counter = none) :
    EventChange cfg s .render (s.enterFault .digitRange)
  | lastByte (h : s.encByteHeld = false) (hk : isLastByte cfg s.encK = true) :
    EventChange cfg s .encByte (s.sinkWrite (encByteAt s.buf s.encK)).startLatch
  | byte (h : s.encByteHeld = false) (hk : isLastByte cfg s.encK = false) :
    EventChange cfg s .encByte (s.sinkWrite (encByteAt s.buf s.encK)).nextByte
  | release (h : s.latchEndHeld cfg = false) : EventChange cfg s .latchEnd s.releaseLatch
  | resetGood : EventChange cfg s (.reset true) (s.resetRegisters cfg)
  | resetFailed : EventChange cfg s (.reset false) ((s.resetRegisters cfg).enterFault .initNoChannel)

/-- Every event's effect is one of the changes. -/
theorem eventChange (cfg : Config) (i : Instr) (s : State) : EventChange cfg s i ((apply cfg i s).stateAfter s) := by
  cases i with
  | edgeA =>
    rcases applyEdgeA_cases cfg s with ⟨h, e⟩ | ⟨_, e⟩ <;> simp only [apply, e, stateAfter_took]
    · exact .acceptedA h
    · exact .unchanged _
  | edgeB =>
    rcases applyEdgeB_cases cfg s with ⟨h, e⟩ | ⟨_, e⟩ <;> simp only [apply, e, stateAfter_took]
    · exact .acceptedB h
    · exact .unchanged _
  | edgeC =>
    rcases applyEdgeC_cases s with ⟨h, e⟩ | ⟨_, e⟩ <;> simp only [apply, e, stateAfter_took]
    · exact .update h
    · exact .unchanged _
  | tick dt => exact .time dt
  | render =>
    rcases applyRender_cases cfg s with ⟨_, e⟩ | ⟨h, hp, e⟩ | ⟨d, h, e⟩ | ⟨h, hp, hd, e⟩ <;>
      simp only [apply, e, stateAfter_took, stateAfter_hold, stateAfter_raised]
    · exact .unchanged _
    · exact .idle h hp
    · exact .draw d h
    · exact .digitFault h hp hd
  | encByte =>
    rcases applyEncByte_cases cfg s with ⟨_, e⟩ | ⟨h, hk, e⟩ | ⟨h, hk, e⟩ <;>
      simp only [apply, e, stateAfter_took, stateAfter_hold]
    · exact .unchanged _
    · exact .lastByte h hk
    · exact .byte h hk
  | latchEnd =>
    rcases applyLatchEnd_cases cfg s with ⟨_, e⟩ | ⟨h, e⟩ <;> simp only [apply, e, stateAfter_took, stateAfter_hold]
    · exact .unchanged _
    · exact .release h
  | reset ch =>
    rcases applyReset_cases cfg ch s with ⟨h, e⟩ | ⟨h, e⟩ <;> subst h <;> simp only [apply, e, stateAfter_took]
    · exact .resetGood
    · exact .resetFailed

/-- Every word delivered leaves one of the changes of its event, or the fault of an illegal word. -/
theorem wordChange (cfg : Config) (w : Word) (s : State) :
    (∃ i, decode w = .ok i ∧ EventChange cfg s i (afterWord cfg w s)) ∨
    (∃ e, decode w = .error e ∧ afterWord cfg w s = s.enterFault .illegalEvent) := by
  rcases afterWord_cases cfg w s with ⟨i, hd, e⟩ | h
  · left; exact ⟨i, hd, e ▸ eventChange cfg i s⟩
  · right; exact h

/-- An executed event either holds and leaves the state, or leaves one of its changes with its word consumed. -/
theorem exec_change (i : Instr) (s t : State) (h : exec i s = .next t) :
    ((apply Config.hardware i s).isHold = true ∧ t = s) ∨
    ((apply Config.hardware i s).isHold = false ∧ ∃ u, EventChange Config.hardware s i u ∧ t = u.consume) := by
  rw [exec_eq_settle] at h
  rcases settle_cases s (apply Config.hardware i s) with ⟨ha, e⟩ | ⟨ha, e⟩ <;> rw [e] at h <;> cases h
  · left; exact ⟨by rw [ha]; rfl, rfl⟩
  · right; exact ⟨ha, _, eventChange _ _ _, rfl⟩

end Sys2Proof.Machine
end

