-- ==== Sys2Proof/Laws/Decode.lean ====
section
/-! SUPPORT. The two fields of a word (30_encoding.md rule R61): their values, and that they and the word determine each
other. -/

namespace Sys2Proof

/-- `op` is the word's quotient by 2^28. -/
theorem opField_toNat (w : Word) : (opField w).toNat = w.toNat / 2 ^ 28 := by
  have h : w.toNat < 2 ^ 32 := w.isLt
  simp only [opField, BitVec.extractLsb'_toNat, Nat.shiftRight_eq_div_pow]
  omega

/-- `imm` is the word's remainder by 2^28. -/
theorem immField_toNat (w : Word) : (immField w).toNat = w.toNat % 2 ^ 28 := by
  simp only [immField, BitVec.extractLsb'_toNat, Nat.shiftRight_zero]

/-- The value of a word made of its two fields. -/
theorem fields_toNat (op : BitVec 4) (imm : BitVec 28) :
    (op ++ imm : Word).toNat = op.toNat * 2 ^ 28 + imm.toNat := by
  have h : (op ++ imm : Word).toNat = op.toNat <<< 28 ||| imm.toNat := BitVec.toNat_append op imm
  rw [h, Nat.shiftLeft_eq, Nat.mul_comm, Nat.two_pow_add_eq_or_of_lt imm.isLt]

@[simp] theorem opField_append (op : BitVec 4) (imm : BitVec 28) : opField (op ++ imm) = op := by
  apply BitVec.eq_of_toNat_eq
  have h := imm.isLt
  rw [opField_toNat, fields_toNat]
  omega

@[simp] theorem immField_append (op : BitVec 4) (imm : BitVec 28) : immField (op ++ imm) = imm := by
  apply BitVec.eq_of_toNat_eq
  have h := imm.isLt
  rw [immField_toNat, fields_toNat]
  omega

/-- A word is its two fields. -/
theorem append_fields (w : Word) : (opField w ++ immField w : Word) = w := by
  apply BitVec.eq_of_toNat_eq
  rw [fields_toNat, opField_toNat, immField_toNat]
  omega

/-- The must-be-zero bits of RESET, as a number. -/
theorem immHigh_toNat (imm : BitVec 28) : (immHigh imm).toNat = imm.toNat / 2 := by
  have h := imm.isLt
  simp only [immHigh, BitVec.extractLsb'_toNat, Nat.shiftRight_eq_div_pow]
  omega

end Sys2Proof
end

