-- ==== Sys2Proof/Laws/PerInstr.lean ====
section
/-! SUPPORT. Facts about each event as syntax, one lemma per constructor. -/

namespace Sys2Proof.Laws

/-- The event's word matches its own row of the opcode map (30_encoding.md rule R66): the row that carries its mnemonic. -/
abbrev EncodesInItsRow.Statement (i : Instr) : Prop :=
  ∃ row ∈ opcodeTable, row.name = mnemonic i ∧ row.matchesWord (encode i) = true

/-- A word whose four high bits are 0x4 matches TICK's row, whatever its operand. -/
theorem tick_row_matches (imm : BitVec 28) : ((0x4#4 ++ imm : Word) &&& 0xF0000000#32) = 0x40000000#32 := by
  apply BitVec.eq_of_getLsbD_eq
  intro k hk
  rw [BitVec.getLsbD_and, BitVec.getLsbD_append]
  by_cases h : k < 28
  · have h1 : ∀ k : Nat, k < 28 → (0xF0000000#32).getLsbD k = false ∧ (0x40000000#32).getLsbD k = false := by decide
    simp [(h1 k h).1, (h1 k h).2]
  · have h2 : ∀ k : Nat, k < 32 → ¬ k < 28 →
        ((0x4#4).getLsbD (k - 28) && (0xF0000000#32).getLsbD k) = (0x40000000#32).getLsbD k := by decide
    simpa [h] using h2 k hk h

theorem EncodesInItsRow.edgeA : EncodesInItsRow.Statement .edgeA := by decide
theorem EncodesInItsRow.edgeB : EncodesInItsRow.Statement .edgeB := by decide
theorem EncodesInItsRow.edgeC : EncodesInItsRow.Statement .edgeC := by decide
theorem EncodesInItsRow.tick (dt : Nat) : EncodesInItsRow.Statement (.tick dt) := by
  refine ⟨⟨"TICK", 0x40000000#32, 0xF0000000#32⟩, by simp [opcodeTable], rfl, ?_⟩
  exact decide_eq_true (tick_row_matches (BitVec.ofNat 28 dt))
theorem EncodesInItsRow.render : EncodesInItsRow.Statement .render := by decide
theorem EncodesInItsRow.encByte : EncodesInItsRow.Statement .encByte := by decide
theorem EncodesInItsRow.latchEnd : EncodesInItsRow.Statement .latchEnd := by decide
theorem EncodesInItsRow.reset (chOk : Bool) : EncodesInItsRow.Statement (.reset chOk) := by cases chOk <;> decide

end Sys2Proof.Laws
end

