-- ==== Sys2Proof/Tests/Slice0.lean ====
section
/-! SUPPORT. The model's own tests. Expected values come from 95_test_vectors.md (the vector's id stands in the comment) or
are worked out by hand from the rule named. Then, for each statement with hypotheses, a state that meets them. -/

namespace Sys2Proof.Tests

open Sys2Proof.Machine

/-! WellFormed: an ill-formed term for each check. -/

theorem test_wf_tick_too_long : (Instr.tick 268435456).wf = false := by decide
theorem test_wf_tick_longest : (Instr.tick 268435455).wf = true := by decide
theorem test_wf_glyph_empty : Glyph.wf 25 ⟨[], Colour.black⟩ = false := by decide
theorem test_wf_glyph_out_of_range : Glyph.wf 25 ⟨[3, 25], Colour.black⟩ = false := by decide
theorem test_wf_glyph_duplicate : Glyph.wf 25 ⟨[7, 2, 7], Colour.black⟩ = false := by decide

/-- TEST_ROM of 95_test_vectors.md, cell and colour of digit `d`. It is not the hardware's. -/
def testGlyph (d : Nat) : Glyph := ⟨[d], ⟨BitVec.ofNat 8 (16 + d), BitVec.ofNat 8 (32 + d), BitVec.ofNat 8 (48 + d)⟩⟩

/-- A configuration with TEST_ROM. -/
def testConfig : Config where
  nCells := 25
  debounceMs := 500
  resetUs := 100
  redrawOnClamp := false
  firstEdgeFree := false
  bitOrder := .msbFirst
  rom := #v[testGlyph 0, testGlyph 1, testGlyph 2, testGlyph 3, testGlyph 4, testGlyph 5, testGlyph 6, testGlyph 7,
    testGlyph 8, testGlyph 9]

theorem test_config_accepted : testConfig.configure? = some testConfig := by decide
theorem test_config_no_cell : { testConfig with nCells := 0 }.configure? = none := by decide
theorem test_config_rom_out_of_range : { testConfig with nCells := 9 }.configure? = none := by decide
theorem test_config_index_too_wide : { testConfig with nCells := 43 }.configure? = none := by decide

/-! Decoding: words written out from the encoding table of 30_encoding.md rule R66 (95_test_vectors.md section 2.1). -/

theorem test_decode_edgeA : decodeTableWord 32 0b00010000000000000000000000000000 = some .edgeA := by decide
theorem test_decode_edgeB : decodeTableWord 32 0b00100000000000000000000000000000 = some .edgeB := by decide
theorem test_decode_edgeC : decodeTableWord 32 0b00110000000000000000000000000000 = some .edgeC := by decide
theorem test_decode_tick : decodeTableWord 32 0b01000000000001111010000100100000 = some (.tick 500000) := by decide
theorem test_decode_tick_max : decodeTableWord 32 0x4FFFFFFF = some (.tick 268435455) := by decide
theorem test_decode_render : decodeTableWord 32 0b01010000000000000000000000000000 = some .render := by decide
theorem test_decode_encByte : decodeTableWord 32 0b01100000000000000000000000000000 = some .encByte := by decide
theorem test_decode_latchEnd : decodeTableWord 32 0b01110000000000000000000000000000 = some .latchEnd := by decide
theorem test_decode_reset_good : decodeTableWord 32 0b10000000000000000000000000000001 = some (.reset true) := by decide
theorem test_decode_reset_failed : decodeTableWord 32 0x80000000 = some (.reset false) := by decide
theorem test_decode_zero_word : decode 0x00000000#32 = .error (.reservedOp 0x0#4) := by rfl
theorem test_decode_reserved : decode 0x90000000#32 = .error (.reservedOp 0x9#4) := by rfl
theorem test_decode_reserved_last : decode 0xF0000000#32 = .error (.reservedOp 0xF#4) := by rfl
theorem test_decode_edgeA_operand : decode 0x10000001#32 = .error (.operandBitSet 0x1#4) := by rfl
theorem test_decode_encByte_operand : decode 0x6FFFFFFF#32 = .error (.operandBitSet 0x6#4) := by rfl
theorem test_decode_reset_operand : decode 0x80000003#32 = .error (.operandBitSet 0x8#4) := by rfl

/-! One event each. -/

/-- The state a step leaves; the reset state where there is none. -/
def nextOf : Host.Outcome State Fault Refusal → State
  | .next t => t
  | _ => State.reset

/-- The reset state some µs later. -/
def atTime (us : Nat) : State := { State.reset with clockUs := us }

/-- DC-2: one ms before 500 ms an edge is rejected. -/
theorem test_edgeA_rejected : nextOf (exec .edgeA (atTime 499999)) = atTime 499999 := by decide

/-- DC-3: at 500 ms it is accepted. -/
theorem test_edgeA_accepted :
    nextOf (exec .edgeA (atTime 500000)) =
      { atTime 500000 with counter := 1#4, lastAMs := 500, redrawFlag := true } := by decide

/-- R86's example: counter 2, last_b_ms 0, clock_us 1500000. -/
theorem test_edgeB_accepted :
    nextOf (exec .edgeB { atTime 1500000 with counter := 2#4 }) =
      { atTime 1500000 with counter := 1#4, lastBMs := 1500, redrawFlag := true } := by decide

/-- DC-7: at 0 only the timestamp moves. -/
theorem test_edgeB_clamped : nextOf (exec .edgeB (atTime 600000)) = { atTime 600000 with lastBMs := 600 } := by decide

/-- DC-10. -/
theorem test_edgeC_run : nextOf (exec .edgeC State.reset) = { State.reset with mode := .update } := by decide

/-- DC-13. -/
theorem test_edgeC_update :
    nextOf (exec .edgeC { State.reset with mode := .update }) = { State.reset with mode := .update } := by decide

/-- DC-15. -/
theorem test_tick_longest : (nextOf (exec (.tick 268435455) (atTime 10))).clockUs = 268435465 := by decide

/-- DC-16. -/
theorem test_tick_in_fault :
    nextOf (exec (.tick 7) { atTime 5 with mode := .fault }) = { atTime 12 with mode := .fault } := by decide

/-- GR-7 under TEST_ROM: cell 3 takes digit 3's colour, every other cell BLACK. -/
theorem test_render_draws :
    (applyRender testConfig { State.reset with redrawFlag := true, counter := 3#4 }).stateAfter State.reset =
      { State.reset with
        counter := 3#4
        bootPending := false
        encPhase := .send
        frames := 1
        buf := [Colour.black, Colour.black, Colour.black, ⟨0x13#8, 0x23#8, 0x33#8⟩] ++
          List.replicate 21 Colour.black } := by decide

/-- GR-8: an out-of-range counter raises the fault, and the redraw flag is still set. -/
theorem test_render_digit_fault :
    nextOf (exec .render { State.reset with redrawFlag := true, counter := 12#4 }) =
      { State.reset with redrawFlag := true, counter := 12#4, mode := .fault, faultCode := 2#2 } := by decide

/-- A state in SEND whose cell 0 is (10, 20, 30) and cell 24 is (1, 2, 3). -/
def sending (k : BitVec 7) : State :=
  { atTime 900 with
    bootPending := false
    encPhase := .send
    encK := k
    buf := ⟨10#8, 20#8, 30#8⟩ :: List.replicate 23 Colour.black ++ [⟨1#8, 2#8, 3#8⟩] }

/-- EN-3: the second byte of a cell is red. -/
theorem test_encByte_red : nextOf (exec .encByte (sending 1#7)) = { sending 2#7 with out := [10#8] } := by decide

/-- EN-5: the last byte is cell 24's blue, and the latch window starts. -/
theorem test_encByte_last :
    nextOf (exec .encByte (sending 74#7)) =
      { sending 74#7 with out := [3#8], encPhase := .latch, latchStartUs := 900 } := by decide

/-- A state in LATCH since 900 µs, with a LATCH_END delivered. -/
def latched (us : Nat) : State :=
  { atTime us with encPhase := .latch, latchStartUs := 900, input := [0x70000000#32] }

/-- EN-6: a held event leaves its word at the head of the input. -/
theorem test_latchEnd_holds : nextOf (step (latched 999)) = latched 999 := by decide

/-- EN-7. -/
theorem test_latchEnd_releases :
    nextOf (step (latched 1000)) = { latched 1000 with encPhase := .idle, input := [] } := by decide

/-- SY-2 from a state in the middle of a frame. -/
theorem test_reset_failed :
    nextOf (exec (.reset false) (sending 30#7)) = { State.reset with mode := .fault, faultCode := 1#2 } := by decide

/-- SY-1: `out` and `frames` survive a RESET. -/
theorem test_reset_keeps_observations :
    nextOf (exec (.reset true) { sending 30#7 with out := [1#8, 2#8], frames := 4 }) =
      { State.reset with out := [1#8, 2#8], frames := 4 } := by decide

/-- SY-4: an illegal word keeps the first code and is consumed. -/
theorem test_illegal_keeps_code :
    nextOf (step { State.reset with mode := .fault, faultCode := 1#2, input := [0x10000001#32] }) =
      { State.reset with mode := .fault, faultCode := 1#2 } := by decide

/-- SY-5. -/
theorem test_illegal_in_update :
    nextOf (step (({ State.reset with mode := .update } : State).withFetchWord 32 0x90000000)) =
      { State.reset with mode := .fault, faultCode := 3#2 } := by decide

/-- DC-17, a configuration that is not this hardware's: with REDRAW_ON_CLAMP the flag is set at 9. -/
theorem test_redraw_on_clamp :
    (applyEdgeA { testConfig with redrawOnClamp := true } { atTime 600000 with counter := 9#4 }).stateAfter State.reset =
      { atTime 600000 with counter := 9#4, lastAMs := 600, redrawFlag := true } := by decide

/-- EN-12: with one cell the third byte is the last. -/
theorem test_one_cell_last_byte : isLastByte { testConfig with nCells := 1 } 2#7 = true := by decide

/-- R80: with FIRST_EDGE_FREE an edge at 0 ms is accepted, and the next at 0 ms is not. -/
theorem test_first_edge_free :
    afterEventFree { testConfig with firstEdgeFree := true } .edgeA State.reset SeenBits.reset =
      ({ State.reset with counter := 1#4, redrawFlag := true }, ⟨true, false⟩) := by decide

/-- R46. -/
theorem test_pack_entry : packEntry ⟨0x12#8, 0x34#8, 0x56#8⟩ = 0x123456#24 := by decide

/-- R73: one full TICK and the rest. -/
theorem test_wait_us : waitTicks 268435456 = [.tick 268435455, .tick 1] := by decide

/-- R72: a label, a comment, decimal and hexadecimal operands, and R74's WAIT_MS 500, word 0x4007A120. -/
theorem test_assemble :
    assemble testConfig "start:\nRESET 1 ; boot\nTICK 100\n\nTICK 0x64\nWAIT_MS 500\nEDGE_A".toList =
      some [0x80000001#32, 0x40000064#32, 0x40000064#32, 0x4007A120#32, 0x10000000#32] := by decide
theorem test_assemble_stray_operand : assemble testConfig "EDGE_A 1".toList = none := by decide
theorem test_assemble_tick_too_long : assemble testConfig "TICK 268435456".toList = none := by decide
theorem test_assemble_flush_too_long :
    assemble { testConfig with resetUs := 268435456 } "FLUSH".toList = none := by decide

/-! Witnesses: for each statement of Certificates/Slice0/Obligations.lean with hypotheses, a concrete state and operands
that meet them, one for each clause, at a boundary value of its range. -/

/-- A state with one word delivered. -/
def given1 (s : State) (w : Word) : State := { s with input := [w] }

theorem test_witness_StepApplies_taken :
    (given1 State.reset 0x4FFFFFFF#32).input = 0x4FFFFFFF#32 :: [] ∧
    decode 0x4FFFFFFF#32 = .ok (.tick 268435455) ∧
    (apply Config.hardware (.tick 268435455) (given1 State.reset 0x4FFFFFFF#32)).isHold = false := ⟨rfl, rfl, rfl⟩
theorem test_witness_StepApplies_held :
    (latched 999).input = 0x70000000#32 :: [] ∧ decode 0x70000000#32 = .ok .latchEnd ∧
    (apply Config.hardware .latchEnd (latched 999)).isHold = true := ⟨rfl, rfl, by decide⟩
theorem test_witness_IllegalWord_zero_op : (0x0FFFFFFF#32).toNat / 2 ^ 28 = 0 := by decide
theorem test_witness_IllegalWord_reserved_op : 9 ≤ (0x90000000#32).toNat / 2 ^ 28 := by decide
theorem test_witness_IllegalWord_operand :
    (0x10000001#32).toNat / 2 ^ 28 ∈ [1, 2, 3, 5, 6, 7] ∧ (0x10000001#32).toNat % 2 ^ 28 ≠ 0 := by decide
theorem test_witness_IllegalWord_reset_operand :
    (0x80000002#32).toNat / 2 ^ 28 = 8 ∧ 2 ≤ (0x80000002#32).toNat % 2 ^ 28 := by decide
theorem test_witness_NoEvent : State.reset.input = [] := rfl
theorem test_witness_HoldIsLifted :
    (latched 900).input = encode .latchEnd :: [] ∧ (latched 900).mode = .run ∧ (latched 900).encPhase = .latch ∧
    (latched 900).latchStartUs ≤ (latched 900).clockUs ∧ (latched 900).clockUs < (latched 900).latchStartUs + 100 ∧
    100 < 2 ^ 28 ∧ (latched 900).latchStartUs + 100 ≤ (latched 900).clockUs + 100 := by decide
theorem test_witness_EdgeA_accepted :
    (atTime 500000).counter ≤ 9#4 ∧ (atTime 500000).lastAMs ≤ (atTime 500000).clockUs / 1000 ∧
    (atTime 500000).mode = .run ∧ (atTime 500000).clockUs / 1000 - (atTime 500000).lastAMs ≥ 500 := by decide
theorem test_witness_EdgeA_rejected :
    (atTime 499999).counter ≤ 9#4 ∧ (atTime 499999).lastAMs ≤ (atTime 499999).clockUs / 1000 ∧
    ¬ (atTime 499999).clockUs / 1000 - (atTime 499999).lastAMs ≥ 500 := by decide
theorem test_witness_EdgeB_accepted :
    (atTime 500000).counter ≤ 9#4 ∧ (atTime 500000).lastBMs ≤ (atTime 500000).clockUs / 1000 ∧
    (atTime 500000).mode = .run ∧ (atTime 500000).clockUs / 1000 - (atTime 500000).lastBMs ≥ 500 := by decide
theorem test_witness_EdgeB_rejected :
    (atTime 499999).counter ≤ 9#4 ∧ (atTime 499999).lastBMs ≤ (atTime 499999).clockUs / 1000 ∧
    ¬ (atTime 499999).clockUs / 1000 - (atTime 499999).lastBMs ≥ 500 := by decide
theorem test_witness_EdgeC : State.reset.mode = .run := rfl
theorem test_witness_Render_held : (sending 0#7).mode ≠ .run ∨ (sending 0#7).encPhase ≠ .idle := by decide
theorem test_witness_Render_idle :
    ∃ s : State, s.mode = .run ∧ s.encPhase = .idle ∧ s.redrawFlag = false ∧ s.bootPending = false :=
  ⟨{ State.reset with bootPending := false }, by decide⟩
theorem test_witness_Render_draws :
    ∃ s : State, s.mode = .run ∧ s.encPhase = .idle ∧ (s.redrawFlag = true ∨ s.bootPending = true) ∧
      s.counter.toNat = (9 : Fin 10).val := ⟨{ State.reset with counter := 9#4 }, by decide⟩
theorem test_witness_Render_digit_fault :
    ∃ s : State, s.mode = .run ∧ s.encPhase = .idle ∧ (s.redrawFlag = true ∨ s.bootPending = true) ∧
      9 < s.counter.toNat := ⟨{ State.reset with counter := 10#4 }, by decide⟩
theorem test_witness_EncByte_held :
    State.reset.buf.length = 25 ∧ (State.reset.encPhase = .send → State.reset.encK.toNat < 75) ∧
    State.reset.encPhase ≠ .send := by decide
theorem test_witness_EncByte_last :
    (sending 74#7).buf.length = 25 ∧ ((sending 74#7).encPhase = .send → (sending 74#7).encK.toNat < 75) ∧
    (sending 74#7).mode = .run ∧ (sending 74#7).encPhase = .send ∧ (sending 74#7).encK = 74#7 := by decide
theorem test_witness_EncByte_not_last :
    (sending 73#7).buf.length = 25 ∧ ((sending 73#7).encPhase = .send → (sending 73#7).encK.toNat < 75) ∧
    (sending 73#7).mode = .run ∧ (sending 73#7).encPhase = .send ∧ (sending 73#7).encK ≠ 74#7 := by decide
theorem test_witness_LatchEnd_released :
    (latched 1000).latchStartUs ≤ (latched 1000).clockUs ∧ (latched 1000).mode = .run ∧
    (latched 1000).encPhase = .latch ∧ (latched 1000).clockUs - (latched 1000).latchStartUs ≥ 100 := by decide
theorem test_witness_LatchEnd_held :
    (latched 999).latchStartUs ≤ (latched 999).clockUs ∧
    ¬ (latched 999).clockUs - (latched 999).latchStartUs ≥ 100 := by decide
theorem test_witness_Saturating : (0#4).toNat ≤ 9 ∧ (9#4).toNat ≤ 9 := by decide
theorem test_witness_Redraw_accepted :
    (atTime 500000).acceptsA testConfig = true ∧ (atTime 500000).acceptsB testConfig = true := by decide
theorem test_witness_Redraw_rejected :
    (atTime 499999).acceptsA testConfig = false ∧ (atTime 499999).acceptsB testConfig = false := by decide
theorem test_witness_ClampedEdge :
    (∃ s : State, s.mode = .run ∧ s.counter = 9#4 ∧ s.lastAMs + 500 ≤ s.clockUs / 1000) ∧
    (∃ s : State, s.mode = .run ∧ s.counter = 0#4 ∧ s.lastBMs + 500 ≤ s.clockUs / 1000) :=
  ⟨⟨{ atTime 500000 with counter := 9#4 }, by decide⟩, ⟨atTime 500000, by decide⟩⟩
theorem test_witness_DebounceBoundary :
    (atTime 500000).mode = .run ∧ (atTime 500000).lastAMs ≤ (atTime 500000).clockUs / 1000 ∧
    (atTime 500000).lastBMs ≤ (atTime 500000).clockUs / 1000 ∧
    (atTime 500000).clockUs = 1000 * ((atTime 500000).lastAMs + 500) := by decide
theorem test_witness_DebounceIsPerButton :
    (∃ t, exec .edgeA State.reset = .next t) ∧ (∃ t, exec .edgeB State.reset = .next t) ∧
    (∃ t, exec .edgeC State.reset = .next t) := ⟨⟨_, rfl⟩, ⟨_, rfl⟩, ⟨_, rfl⟩⟩
theorem test_witness_EdgesIgnore :
    agentOf .edgeA = .edge ∧ agentOf .edgeB = .edge ∧ agentOf .edgeC = .edge ∧
    ∃ t, exec .edgeA State.reset = .next t := ⟨rfl, rfl, rfl, _, rfl⟩

/-- A property of every word of a list, checked word by word. -/
theorem forall_words (p : Word → Bool) (ws : List Word) (h : ws.all (fun w => !p w) = true) : ∀ w ∈ ws, p w = false := by
  simpa using h

/-- P3's words up to 1000 ms: two accepted edges of A, 500 ms apart. -/
def twoEdges : List Word := [0x4007A120#32, 0x10000000#32, 0x10000000#32, 0x4007A120#32, 0x10000000#32]

theorem test_witness_AcceptedEdges :
    NoReset twoEdges ∧ acceptedTimes Config.hardware .a twoEdges State.reset = [500, 1000] :=
  ⟨forall_words _ _ (by decide), by decide⟩
theorem test_witness_FirstEdge :
    NoReset [0x4007A11F#32, 0x10000000#32, 0x40000001#32] ∧
    edgeTimes Config.hardware .a [0x4007A11F#32, 0x10000000#32, 0x40000001#32]
      (State.reset.resetRegisters Config.hardware) = [499] ∧
    (deliverAll Config.hardware [0x4007A11F#32, 0x10000000#32, 0x40000001#32]
      (State.reset.resetRegisters Config.hardware)).mode = .run ∧
    (deliverAll Config.hardware [0x4007A11F#32, 0x10000000#32, 0x40000001#32]
      (State.reset.resetRegisters Config.hardware)).nowMs = 500 :=
  ⟨forall_words _ _ (by decide), by decide, by decide, by decide⟩
theorem test_witness_CounterStaysADigit : ({ State.reset with counter := 9#4 } : State).counter.toNat ≤ 9 := by decide
theorem test_witness_OrderOfEdges :
    ∃ s : State, s.mode = .run ∧ s.counter = 9#4 ∧ s.lastAMs + 500 ≤ s.nowMs ∧ s.lastBMs + 500 ≤ s.nowMs :=
  ⟨{ atTime 500000 with counter := 9#4 }, by decide⟩
theorem test_witness_OrderOfEdges_update :
    ∃ s : State, s.mode = .run ∧ s.counter < 9#4 ∧ s.lastAMs + 500 ≤ s.nowMs :=
  ⟨{ atTime 500000 with counter := 8#4 }, by decide⟩
theorem test_witness_FirstEdgeFree :
    testConfig.firstEdgeFree = false ∧ { testConfig with firstEdgeFree := true }.firstEdgeFree = true ∧
    State.reset.mode = .run ∧ SeenBits.reset.a = false ∧ SeenBits.reset.b = false := by decide
theorem test_witness_GlyphRom : GlyphTable.wf 9 testConfig.rom = false ∧ GlyphTable.wf 25 testConfig.rom = true := by decide
theorem test_witness_DrawingSequence : testConfig.wf = true ∧ [7, 2].Perm [2, 7] := by decide
theorem test_witness_BootFrame :
    NoReset [0x4007A120#32, 0x10000000#32] ∧
    (∀ w ∈ [0x4007A120#32, 0x10000000#32], spells w .render = false) ∧
    (deliverAll Config.hardware [0x4007A120#32, 0x10000000#32]
      (State.reset.resetRegisters Config.hardware)).mode = .run :=
  ⟨forall_words _ _ (by decide), forall_words (fun w => spells w .render) _ (by decide), by decide⟩
theorem test_witness_RenderHolds_latched :
    (latched 1000).encPhase ≠ .idle ∧ ∃ t, exec .latchEnd (latched 1000) = .next t ∧ t.encPhase = .idle :=
  ⟨by decide, _, rfl, by decide⟩
theorem test_witness_RenderHolds_stopped :
    ∃ s : State, s.mode ≠ .run ∧ ∃ t, exec (.reset true) s = .next t ∧ t.mode = .run :=
  ⟨{ State.reset with mode := .update }, by decide, _, rfl, by decide⟩
theorem test_witness_RenderHolds_buffer :
    (sending 3#7).encPhase ≠ .idle ∧ (∃ t, exec .encByte (sending 3#7) = .next t) ∧
    ∀ ch, Instr.encByte ≠ .reset ch := ⟨by decide, ⟨_, rfl⟩, by simp⟩
theorem test_witness_SameDigit :
    State.reset.draws 0 ∧ ({ atTime 100 with bootPending := false, redrawFlag := true, frames := 1 } : State).draws 0 := by
  decide
theorem test_witness_PendingRedraw :
    NoReset twoEdges ∧ ({ State.reset with redrawFlag := true } : State).redrawFlag = true :=
  ⟨forall_words _ _ (by decide), rfl⟩

/-- An environment that keeps its duties: a TICK to 500 ms, one EDGE_A, then RENDER, ENC_BYTE, TICK and LATCH_END for
ever. -/
def fairEnv (n : Nat) : Word :=
  if n = 0 then 0x4007A120#32
  else if n = 1 then 0x10000000#32
  else if n % 4 = 2 then 0x50000000#32
  else if n % 4 = 3 then 0x60000000#32
  else if n % 4 = 0 then 0x40000064#32
  else 0x70000000#32

/-- From time 2 on the four words return with period 4. -/
theorem fairEnv_at (q r : Nat) (hr : r < 4) :
    fairEnv (4 * (q + 1) + r) =
      if r = 2 then 0x50000000#32 else if r = 3 then 0x60000000#32 else if r = 0 then 0x40000064#32 else 0x70000000#32 := by
  have h0 : ¬ (4 * (q + 1) + r = 0) := by omega
  have h1 : ¬ (4 * (q + 1) + r = 1) := by omega
  have h4 : (4 * (q + 1) + r) % 4 = r := by omega
  simp only [fairEnv, h0, h1, h4, if_false]

theorem test_witness_EveryChange_duties : Duties Config.hardware fairEnv State.reset where
  sinkAccepts n _ _ := ⟨4 * (n + 1) + 3, by omega, by rw [fairEnv_at n 3 (by omega)]; decide⟩
  timeGrows n := ⟨4 * (n + 1) + 0, 100, by omega, by omega, by rw [fairEnv_at n 0 (by omega)]; decide⟩
  latchReleases n _ := ⟨4 * (n + 1) + 1, by omega, by rw [fairEnv_at n 1 (by omega)]; decide⟩
  renderRuns n := ⟨4 * (n + 1) + 2, by omega, by rw [fairEnv_at n 2 (by omega)]; decide⟩

theorem test_witness_EveryChange_quiet (m : Nat) (h : 1 < m) :
    ∃ i, decode (fairEnv m) = .ok i ∧ i ≠ .edgeC ∧ ∀ ch, i ≠ .reset ch := by
  have h0 : ¬ m = 0 := by omega
  have h1 : ¬ m = 1 := by omega
  unfold fairEnv
  simp only [h0, h1, if_false]
  split
  · exact ⟨.render, by decide, by simp, by simp⟩
  · split
    · exact ⟨.encByte, by decide, by simp, by simp⟩
    · split
      · exact ⟨.tick 100, by decide, by simp, by simp⟩
      · exact ⟨.latchEnd, by decide, by simp, by simp⟩

/-- Together with the two theorems above, at time 1. -/
theorem test_witness_EveryChange :
    Inv Config.hardware 0 (trace Config.hardware fairEnv State.reset 1) ∧
    (trace Config.hardware fairEnv State.reset 1).mode = .run ∧ spells (fairEnv 1) .edgeA = true ∧
    (trace Config.hardware fairEnv State.reset (1 + 1)).counter ≠
      (trace Config.hardware fairEnv State.reset 1).counter := by
  refine ⟨?_, by decide, by decide, by decide⟩
  constructor <;> decide

theorem test_witness_FlushSerializes :
    testConfig.wf = true ∧ (sending 0#7).mode = .run ∧ (sending 0#7).encPhase = .send ∧ (sending 0#7).encK = 0#7 ∧
    (sending 0#7).buf.length = testConfig.nCells := by decide
theorem test_witness_FrameShows :
    State.reset.draws 0 ∧ NoReset [encode .encByte, 0x10000000#32] ∧
    ∀ w ∈ [encode .encByte, 0x10000000#32], spells w .edgeC = false :=
  ⟨by decide, forall_words _ _ (by decide), forall_words (fun w => spells w .edgeC) _ (by decide)⟩
theorem test_witness_LatchWindow :
    (sending 74#7).encPhase = .send ∧ (∃ t, exec .encByte (sending 74#7) = .next t ∧ t.encPhase = .latch ∧
      (deliverAll Config.hardware [0x40000063#32, 0x70000000#32] t).clockUs < (sending 74#7).clockUs + 100) ∧
    NoReset [0x40000063#32, 0x70000000#32] := ⟨by decide, ⟨_, rfl, by decide, by decide⟩, forall_words _ _ (by decide)⟩
theorem test_witness_OnlyEncByteWrites : ∃ t, step (given1 (sending 0#7) 0x60000000#32) = .next t ∧ t.out = [20#8] :=
  ⟨_, rfl, by decide⟩
theorem test_witness_FlushDraws : State.reset.draws 0 := by decide
theorem test_witness_Outputs : (sending 0#7).sinkValid = true ∧ State.reset.sinkValid = false := by decide

/-- A state after a fault. -/
def faulted : State := { atTime 1000 with mode := .fault, faultCode := 1#2 }

theorem test_witness_FaultMode :
    faulted.mode = .fault ∧ faulted.faultCode ≠ 0#2 ∧ (given1 faulted 0#32).input = 0#32 :: [] ∧
    decode 0#32 = .error (.reservedOp 0#4) ∧
    (∃ t, step (given1 faulted 0x40000001#32) = .next t) ∧ spellsReset 0x40000001#32 = false :=
  ⟨rfl, by decide, rfl, rfl, ⟨_, rfl⟩, by decide⟩
theorem test_witness_UpdateMode :
    ∃ s : State, s.mode = .update ∧ s.input = 0x80000001#32 :: [] ∧ ∃ t, step s = .next t ∧ t.mode = .run :=
  ⟨{ State.reset with mode := .update, input := [0x80000001#32] }, rfl, rfl, _, rfl, by decide⟩
theorem test_witness_UpdateMode_illegal :
    ∃ s : State, s.mode = .update ∧ s.input = 0x90000000#32 :: [] ∧ decode 0x90000000#32 = .error (.reservedOp 9#4) :=
  ⟨{ State.reset with mode := .update, input := [0x90000000#32] }, rfl, rfl, rfl⟩
theorem test_witness_FailedChannel : NoReset [0x50000000#32, 0x60000000#32] :=
  forall_words _ _ (by decide)
theorem test_witness_InitFault :
    ∃ t, step (given1 State.reset 0x80000000#32) = .next t ∧ State.reset.faultCode ≠ 1#2 ∧ t.faultCode = 1#2 ∧
      (given1 State.reset 0x80000000#32).input.head? = some 0x80000000#32 := ⟨_, rfl, by decide, by decide, rfl⟩
theorem test_witness_LeaveRun_update :
    State.reset.mode = .run ∧ ∃ t, step (given1 State.reset 0x30000000#32) = .next t ∧ t.mode = .update :=
  ⟨rfl, _, rfl, by decide⟩
theorem test_witness_LeaveRun_reset :
    State.reset.mode = .run ∧ ∃ t, step (given1 State.reset 0x80000000#32) = .next t ∧ t.mode = .fault :=
  ⟨rfl, _, rfl, by decide⟩
theorem test_witness_LeaveRun_illegal :
    State.reset.mode = .run ∧ ∃ t, step (given1 State.reset 0x10000001#32) = .next t ∧ t.mode = .fault :=
  ⟨rfl, _, rfl, by decide⟩
theorem test_witness_LeaveRun_digit :
    ∃ s t : State, s.mode = .run ∧ step s = .next t ∧ t.mode = .fault ∧ s.counter = 10#4 :=
  ⟨given1 { State.reset with counter := 10#4 } 0x50000000#32, _, rfl, rfl, by decide, rfl⟩
theorem test_witness_AgentsWrite : apply testConfig .latchEnd (latched 1000) = .took (latched 1000).releaseLatch := by decide
theorem test_witness_TimeMoves : NoReset twoEdges ∧ ∃ t, exec (.tick 5) State.reset = .next t :=
  ⟨forall_words _ _ (by decide), _, rfl⟩
theorem test_witness_EveryStepKeeps :
    Inv Config.hardware 0 (given1 State.reset 0x4FFFFFFF#32) ∧ ∃ t, step (given1 State.reset 0x4FFFFFFF#32) = .next t := by
  refine ⟨?_, _, rfl⟩
  constructor <;> decide
theorem test_witness_SixtyFourBit :
    ∃ s : State, s.clockUs = 2 ^ 64 - 1 ∧ s.lastAMs ≤ s.nowMs ∧ s.lastBMs ≤ s.nowMs ∧ s.latchStartUs ≤ s.clockUs ∧
      s.clockUs + (0#28).toNat < 2 ^ 64 := ⟨atTime (2 ^ 64 - 1), by decide⟩
theorem test_witness_DecodeOfEncode : (Instr.tick 268435455).WellFormed := by decide
theorem test_witness_EncodeOfDecode : decode 0x4FFFFFFF#32 = .ok (.tick 268435455) := rfl
theorem test_witness_DecodeFollows_illegal :
    (given1 State.reset 0#32).input = 0#32 :: [] ∧ ∀ i, decode 0#32 ≠ .ok i :=
  ⟨rfl, fun i => by rw [show decode 0#32 = .error (.reservedOp 0#4) from rfl]; simp⟩
theorem test_witness_Mnemonic : Instr.encByte ∈ plainEvents := by decide
theorem test_witness_Comments : '\n' ∉ "TICK 1 ".toList ∧ '\n' ∉ " wait; then go".toList := by decide

end Sys2Proof.Tests
end

section
/-! The glyph ROM and the configurations the block accepts (00_scope.md rule R10). -/

namespace Sys2Proof

/-- The check over the table as a list is the check of the glyph of each digit. -/
theorem GlyphTable.wf_iff_glyph_wf (n : Nat) (t : GlyphTable) :
    GlyphTable.wf n t = true ↔ ∀ d : Fin 10, t[d].wf n = true := by
  simp only [GlyphTable.wf, List.all_eq_true, Vector.mem_toList_iff]
  constructor
  · intro hall d
    exact hall t[d] (Vector.getElem_mem d.isLt)
  · intro hdigit g hg
    obtain ⟨d, hd, rfl⟩ := Vector.mem_iff_getElem.mp hg
    exact hdigit ⟨d, hd⟩

/-- R10 digit by digit. -/
theorem GlyphTable.wf_iff (n : Nat) (t : GlyphTable) :
    GlyphTable.wf n t = true ↔
      ∀ d : Fin 10, t[d].cells ≠ [] ∧ (∀ i ∈ t[d].cells, i < n) ∧ t[d].cells.Nodup := by
  simp only [GlyphTable.wf_iff_glyph_wf, Glyph.wf_iff]

/-- A configuration the model is defined for holds a well-formed glyph ROM. -/
theorem Config.rom_wf_of_wf {cfg : Config} (hwf : cfg.wf = true) :
    GlyphTable.wf cfg.nCells cfg.rom = true := by
  simp only [Config.wf, Bool.and_eq_true] at hwf
  obtain ⟨-, hrom⟩ := hwf
  exact hrom

/-- Configuring refuses exactly the configurations the model is not defined for. -/
theorem Config.configure?_eq_none_iff (cfg : Config) : cfg.configure? = none ↔ cfg.wf = false := by
  simp [Config.configure?]

/-- The second sentence of R10: an ill-formed glyph ROM is refused. -/
theorem Config.configure?_eq_none_of_rom_not_wf {cfg : Config}
    (hrom : GlyphTable.wf cfg.nCells cfg.rom = false) : cfg.configure? = none := by
  rw [Config.configure?_eq_none_iff, Bool.eq_false_iff]
  intro hwf
  exact Bool.eq_false_iff.mp hrom (Config.rom_wf_of_wf hwf)

/-- What R10 gives of the hardware's open ROM, read through the accessor of the render loop. -/
theorem Machine.romRead_hardware_wf (d : Fin 10) :
    (Machine.romRead Config.hardware d).cells ≠ [] ∧
      (∀ i ∈ (Machine.romRead Config.hardware d).cells, i < 25) ∧
      (Machine.romRead Config.hardware d).cells.Nodup :=
  (GlyphTable.wf_iff 25 Config.hardware.rom).mp (Config.rom_wf_of_wf Config.hardware_wf) d

/-- Settles O27: R10 digit by digit, the refusal through `Config.wf`, and the hardware's table from its own
well-formedness, whatever it holds. -/
theorem glyphRomIsComplete : Obligations.GlyphRomIsComplete :=
  ⟨GlyphTable.wf_iff, fun _ hrom => Config.configure?_eq_none_of_rom_not_wf hrom, Machine.romRead_hardware_wf⟩

end Sys2Proof
end

section
/-! The 24-bit packing of a buffer entry (20_memory.md rule R46): the values of its fields, and both round trips through
them. -/

namespace Sys2Proof.Machine

/-- The field positions of R46, by value. -/
theorem packEntry_toNat (c : Colour) :
    (packEntry c).toNat = c.r.toNat * 2 ^ 16 + c.g.toNat * 2 ^ 8 + c.b.toNat := by
  have hrg : (c.r ++ c.g).toNat = c.r.toNat * 2 ^ 8 + c.g.toNat := by
    rw [BitVec.toNat_append, ← Nat.shiftLeft_add_eq_or_of_lt c.g.isLt, Nat.shiftLeft_eq]
  have hentry : (packEntry c).toNat = (c.r ++ c.g).toNat * 2 ^ 8 + c.b.toNat := by
    rw [packEntry, BitVec.toNat_append, ← Nat.shiftLeft_add_eq_or_of_lt c.b.isLt, Nat.shiftLeft_eq]
  rw [hentry, hrg]
  omega

/-- `entry[23:16]` is red. -/
theorem unpackEntry_r_toNat (e : BitVec 24) : (unpackEntry e).r.toNat = e.toNat / 2 ^ 16 := by
  have he : e.toNat < 2 ^ 24 := e.isLt
  simp only [unpackEntry, BitVec.extractLsb'_toNat, Nat.shiftRight_eq_div_pow]
  omega

/-- `entry[15:8]` is green. -/
theorem unpackEntry_g_toNat (e : BitVec 24) : (unpackEntry e).g.toNat = e.toNat / 2 ^ 8 % 2 ^ 8 := by
  simp only [unpackEntry, BitVec.extractLsb'_toNat, Nat.shiftRight_eq_div_pow]

/-- `entry[7:0]` is blue. -/
theorem unpackEntry_b_toNat (e : BitVec 24) : (unpackEntry e).b.toNat = e.toNat % 2 ^ 8 := by
  simp only [unpackEntry, BitVec.extractLsb'_toNat, Nat.shiftRight_zero]

/-- The value of an entry determines its colour: the three channels are the digits of R46's sum in base 2^8. -/
theorem unpackEntry_packEntry (c : Colour) : unpackEntry (packEntry c) = c := by
  have hvalue := packEntry_toNat c
  have hr : c.r.toNat < 2 ^ 8 := c.r.isLt
  have hg : c.g.toNat < 2 ^ 8 := c.g.isLt
  have hb : c.b.toNat < 2 ^ 8 := c.b.isLt
  have hred : (unpackEntry (packEntry c)).r = c.r := by
    apply BitVec.eq_of_toNat_eq
    rw [unpackEntry_r_toNat]
    omega
  have hgreen : (unpackEntry (packEntry c)).g = c.g := by
    apply BitVec.eq_of_toNat_eq
    rw [unpackEntry_g_toNat]
    omega
  have hblue : (unpackEntry (packEntry c)).b = c.b := by
    apply BitVec.eq_of_toNat_eq
    rw [unpackEntry_b_toNat]
    omega
  calc unpackEntry (packEntry c)
      = ⟨(unpackEntry (packEntry c)).r, (unpackEntry (packEntry c)).g, (unpackEntry (packEntry c)).b⟩ := rfl
    _ = c := by rw [hred, hgreen, hblue]

/-- The three fields cover the 24 bits of an entry. -/
theorem packEntry_unpackEntry (e : BitVec 24) : packEntry (unpackEntry e) = e := by
  apply BitVec.eq_of_toNat_eq
  rw [packEntry_toNat, unpackEntry_r_toNat, unpackEntry_g_toNat, unpackEntry_b_toNat]
  omega

/-- Settles O50: the value of a packed entry is R46's sum, whose digits in base 2^8 the fields read back. -/
theorem entryPackingFields : Obligations.EntryPackingFields :=
  ⟨fun c => ⟨packEntry_toNat c, unpackEntry_packEntry c⟩, packEntry_unpackEntry⟩

end Sys2Proof.Machine
end

section
/-! The serialization of the pixel buffer (20_memory.md rule R48): the bytes of the wire order by their index, what one
ENC_BYTE does in a frame (42_led_encoder.md rules R105, R106), and the whole flush. -/

namespace Sys2Proof

/-- What a configuration's well-formedness says of the frame: it has a byte, and its indices fit `enc_k`. -/
theorem Config.frame_bounds_of_wf {cfg : Config} (hwf : cfg.wf = true) :
    1 ≤ cfg.nCells ∧ 3 * cfg.nCells ≤ 2 ^ 7 := by
  simp only [Config.wf, Bool.and_eq_true, decide_eq_true_eq] at hwf
  obtain ⟨hbounds, -⟩ := hwf
  exact hbounds

end Sys2Proof

namespace Sys2Proof.Machine

/-! The bytes of a buffer in wire order. -/

@[simp] theorem serialize_cons (c : Colour) (buf : List Colour) :
    serialize (c :: buf) = c.g :: c.r :: c.b :: serialize buf := rfl

/-- Three bytes per cell. -/
@[simp] theorem serialize_length (buf : List Colour) : (serialize buf).length = 3 * buf.length := by
  induction buf with
  | nil => rfl
  | cons c buf ih =>
    simp only [serialize_cons, List.length_cons, ih]
    omega

/-- Byte `i` in wire order is channel `i mod 3` of cell `i div 3`, the selection of R105. -/
theorem serialize_getElem? (buf : List Colour) (i : Nat) :
    (serialize buf)[i]? = buf[i / 3]?.map (fun c => channelGRB c (i % 3)) := by
  induction buf generalizing i with
  | nil => rfl
  | cons c buf ih =>
    match i with
    | 0 => rfl
    | 1 => rfl
    | 2 => rfl
    | n + 3 =>
      have hcell : (n + 3) / 3 = n / 3 + 1 := by omega
      have hchannel : (n + 3) % 3 = n % 3 := by omega
      simp only [serialize_cons, List.getElem?_cons_succ, hcell, hchannel, ih]

/-- ENC_BYTE's byte at an index inside the frame is the byte of the wire order at that index. -/
theorem serialize_getElem?_eq_encByteAt {buf : List Colour} {k : BitVec 7} (hk : k.toNat < 3 * buf.length) :
    (serialize buf)[k.toNat]? = some (encByteAt buf k) := by
  have hcell : k.toNat / 3 < buf.length := by omega
  have hentry : buf[k.toNat / 3]? = some buf[k.toNat / 3] := List.getElem?_eq_getElem hcell
  rw [serialize_getElem?, hentry, encByteAt_of_cell buf k _ hentry, Option.map_some]

/-- Writing byte `k` after the first `k` bytes of the frame gives the first `k + 1`. -/
theorem serialize_take_append_encByteAt {buf : List Colour} {k : BitVec 7} (hk : k.toNat < 3 * buf.length) :
    (serialize buf).take k.toNat ++ [encByteAt buf k] = (serialize buf).take (k.toNat + 1) := by
  rw [List.take_add_one, serialize_getElem?_eq_encByteAt hk, Option.toList_some]

/-! One ENC_BYTE in SEND. -/

theorem isLastByte_iff (cfg : Config) (k : BitVec 7) :
    isLastByte cfg k = true ↔ k.toNat = 3 * cfg.nCells - 1 := by
  simp [isLastByte]

/-- ENC_BYTE in RUN and SEND writes the byte at its index and then updates the encoder. -/
theorem afterWord_encByte {cfg : Config} {s : State} (hheld : s.encByteHeld = false) :
    afterWord cfg (encode .encByte) s = (s.sinkWrite (encByteAt s.buf s.encK)).afterByte cfg := by
  have happly : afterWord cfg (encode .encByte) s = (applyEncByte cfg s).stateAfter s := rfl
  simp [happly, applyEncByte, hheld]

/-- Before the last index of the frame, ENC_BYTE moves on to the next. -/
theorem afterWord_encByte_of_not_last {cfg : Config} {s : State} (hheld : s.encByteHeld = false)
    (hk : s.encK.toNat ≠ 3 * cfg.nCells - 1) :
    afterWord cfg (encode .encByte) s = (s.sinkWrite (encByteAt s.buf s.encK)).nextByte :=
  (afterWord_encByte hheld).trans (if_neg (mt (isLastByte_iff cfg s.encK).mp hk))

/-- At the last index of the frame, ENC_BYTE starts the latch window. -/
theorem afterWord_encByte_of_last {cfg : Config} {s : State} (hheld : s.encByteHeld = false)
    (hk : s.encK.toNat = 3 * cfg.nCells - 1) :
    afterWord cfg (encode .encByte) s = (s.sinkWrite (encByteAt s.buf s.encK)).startLatch :=
  (afterWord_encByte hheld).trans (if_pos ((isLastByte_iff cfg s.encK).mpr hk))

/-! A flush from its first byte. -/

/-- `s` after the first `n` bytes of the frame in its buffer are written. -/
def State.withBytesSent (n : Nat) (s : State) : State :=
  { s with out := s.out ++ (serialize s.buf).take n, encK := BitVec.ofNat 7 n }

@[simp] theorem State.withBytesSent_encByteHeld (n : Nat) (s : State) :
    (s.withBytesSent n).encByteHeld = s.encByteHeld := rfl

/-- Inside the frame the 7 bits of `enc_k` hold the number of bytes sent. -/
theorem State.withBytesSent_encK_toNat {n : Nat} (s : State) (hn : n < 2 ^ 7) :
    (s.withBytesSent n).encK.toNat = n :=
  (BitVec.toNat_ofNat n 7).trans (Nat.mod_eq_of_lt hn)

/-- At index 0 nothing of the frame is sent yet. -/
theorem State.withBytesSent_zero {s : State} (hk : s.encK = 0#7) : s.withBytesSent 0 = s := by
  simp [State.withBytesSent, ← hk]

/-- The byte at the index `n` makes the `n` bytes sent `n + 1`. -/
theorem State.withBytesSent_sinkWrite {s : State} {n : Nat} (hn : n < 2 ^ 7) (hlen : n < 3 * s.buf.length) :
    (s.withBytesSent n).sinkWrite (encByteAt (s.withBytesSent n).buf (s.withBytesSent n).encK) =
      { s with out := s.out ++ (serialize s.buf).take (n + 1), encK := BitVec.ofNat 7 n } := by
  have hk := s.withBytesSent_encK_toNat hn
  have htake := serialize_take_append_encByteAt (hk ▸ hlen)
  rw [hk] at htake
  rw [← htake, ← List.append_assoc]
  rfl

/-- An ENC_BYTE before the last one of the frame. -/
theorem afterWord_encByte_withBytesSent {cfg : Config} {s : State} {n : Nat} (hheld : s.encByteHeld = false)
    (hfit : 3 * cfg.nCells ≤ 2 ^ 7) (hlen : s.buf.length = cfg.nCells) (hn : n + 1 < 3 * cfg.nCells) :
    afterWord cfg (encode .encByte) (s.withBytesSent n) = s.withBytesSent (n + 1) := by
  have hindex := s.withBytesSent_encK_toNat (n := n) (by omega)
  have hnext : nextIndex (s.withBytesSent n).encK = BitVec.ofNat 7 (n + 1) := by
    rw [nextIndex_eq_add (by omega), BitVec.ofNat_add]
    rfl
  rw [afterWord_encByte_of_not_last (by simpa using hheld) (by omega),
    State.withBytesSent_sinkWrite (by omega) (by omega), State.withBytesSent, ← hnext]
  rfl

/-- The last ENC_BYTE of the frame. -/
theorem afterWord_encByte_withBytesSent_last {cfg : Config} {s : State} {n : Nat} (hheld : s.encByteHeld = false)
    (hfit : 3 * cfg.nCells ≤ 2 ^ 7) (hlen : s.buf.length = cfg.nCells) (hn : 3 * cfg.nCells = n + 1) :
    afterWord cfg (encode .encByte) (s.withBytesSent n) =
      { s with
        out := s.out ++ serialize s.buf
        encPhase := .latch
        encK := BitVec.ofNat 7 n
        latchStartUs := s.clockUs } := by
  have hindex := s.withBytesSent_encK_toNat (n := n) (by omega)
  have hall : (serialize s.buf).take (n + 1) = serialize s.buf :=
    List.take_of_length_le (by rw [serialize_length]; omega)
  rw [afterWord_encByte_of_last (by simpa using hheld) (by omega),
    State.withBytesSent_sinkWrite (by omega) (by omega), hall]
  rfl

theorem deliverAll_replicate_succ (cfg : Config) (w : Word) (n : Nat) (s : State) :
    deliverAll cfg (List.replicate (n + 1) w) s = afterWord cfg w (deliverAll cfg (List.replicate n w) s) := by
  rw [List.replicate_succ', deliverAll_append, deliverAll_cons, deliverAll_nil]

/-- Any part of the frame but its last byte, by as many ENC_BYTEs. -/
theorem deliverAll_encByte_eq_withBytesSent {cfg : Config} {s : State} (hheld : s.encByteHeld = false)
    (hfit : 3 * cfg.nCells ≤ 2 ^ 7) (hlen : s.buf.length = cfg.nCells) (hk : s.encK = 0#7) (n : Nat)
    (hn : n < 3 * cfg.nCells) :
    deliverAll cfg (List.replicate n (encode .encByte)) s = s.withBytesSent n := by
  induction n with
  | zero => exact (State.withBytesSent_zero hk).symm
  | succ n ih =>
    rw [deliverAll_replicate_succ, ih (by omega), afterWord_encByte_withBytesSent hheld hfit hlen hn]

/-- Settles O34: all bytes but the last by induction, then the last one, which completes the frame and starts the latch
window. -/
theorem flushSerializesTheBuffer : Obligations.FlushSerializesTheBuffer := by
  intro cfg s hwf hmode hphase hk hlen
  have hheld : s.encByteHeld = false := (encByteHeld_false_iff s).mpr ⟨hmode, hphase⟩
  obtain ⟨hcells, hfit⟩ := Config.frame_bounds_of_wf hwf
  obtain ⟨last, hlast⟩ : ∃ last, 3 * cfg.nCells = last + 1 := ⟨3 * cfg.nCells - 1, by omega⟩
  rw [hlast, deliverAll_replicate_succ, deliverAll_encByte_eq_withBytesSent hheld hfit hlen hk last (by omega)]
  exact afterWord_encByte_withBytesSent_last hheld hfit hlen hlast

end Sys2Proof.Machine
end

section
/-! The decoder (30_encoding.md rules R61 to R70): one rule for every event, by its code and the value of its operand,
and the rows of the opcode map. -/

namespace Sys2Proof

/-! The operand as a number. -/

/-- The value of an event's operand (R63, R64, R65), before it is cut to the 28 bits of `imm`. -/
def Instr.operandValue : Instr → Nat
  | .tick dt => dt
  | .reset true => 1
  | .reset false | .edgeA | .edgeB | .edgeC | .render | .encByte | .latchEnd => 0

/-- The operand field is the operand's value, as far as `imm` holds it. -/
theorem operand_toNat (i : Instr) : (operand i).toNat = i.operandValue % 2 ^ 28 := by
  cases i with
  | tick dt => exact BitVec.toNat_ofNat dt 28
  | reset ch => cases ch <;> rfl
  | _ => rfl

/-! What decoding the fields can answer, by the form of the operand. -/

theorem decodePlain_eq_ok_iff (op : BitVec 4) (imm : BitVec 28) (i j : Instr) :
    decodePlain op imm i = .ok j ↔ imm.toNat = 0 ∧ i = j := by
  have hzero : imm = 0#28 ↔ imm.toNat = 0 := BitVec.toNat_inj.symm
  rw [← hzero, decodePlain]
  split
  next h => simp [h]
  next h => simp [h]

theorem getLsbD_zero_eq_decide (imm : BitVec 28) : imm.getLsbD 0 = decide (imm.toNat % 2 = 1) :=
  Nat.testBit_zero imm.toNat

/-- The must-be-zero bits of RESET are zero exactly if `imm` is CH_OK (R64). -/
theorem immHigh_eq_zero_iff (imm : BitVec 28) :
    immHigh imm = 0#27 ↔ imm.toNat = (Instr.reset (imm.getLsbD 0)).operandValue := by
  have hzero : immHigh imm = 0#27 ↔ imm.toNat / 2 = 0 := by
    rw [← immHigh_toNat]
    exact BitVec.toNat_inj.symm
  rw [hzero, getLsbD_zero_eq_decide]
  by_cases hodd : imm.toNat % 2 = 1 <;> simp only [hodd, decide_true, decide_false, Instr.operandValue] <;> omega

/-- Where `imm` is CH_OK, its lowest bit is. -/
theorem getLsbD_zero_of_toNat_eq_operandValue {imm : BitVec 28} {ch : Bool}
    (himm : imm.toNat = (Instr.reset ch).operandValue) : imm.getLsbD 0 = ch := by
  rw [getLsbD_zero_eq_decide, himm]
  cases ch <;> rfl

theorem decodeReset_eq_ok_iff (op : BitVec 4) (imm : BitVec 28) (j : Instr) :
    decodeReset op imm = .ok j ↔ imm.toNat = j.operandValue ∧ ∃ ch, j = .reset ch := by
  constructor
  · intro h
    unfold decodeReset at h
    split at h
    next hhigh =>
      obtain rfl := Except.ok.inj h
      exact ⟨(immHigh_eq_zero_iff imm).mp hhigh, _, rfl⟩
    next => cases h
  · rintro ⟨himm, ch, rfl⟩
    obtain rfl := getLsbD_zero_of_toNat_eq_operandValue himm
    exact if_pos ((immHigh_eq_zero_iff imm).mpr himm)

/-- The fields of an event decode to it. -/
theorem decodeFields_opcode {imm : BitVec 28} (i : Instr) (himm : imm.toNat = i.operandValue) :
    decodeFields (opcode i) imm = .ok i := by
  cases i with
  | tick dt => exact congrArg (fun n => Except.ok (Instr.tick n)) himm
  | reset ch => exact (decodeReset_eq_ok_iff _ _ _).mpr ⟨himm, ch, rfl⟩
  | edgeA | edgeB | edgeC | render | encByte | latchEnd => exact (decodePlain_eq_ok_iff _ _ _ _).mpr ⟨himm, rfl⟩

/-- Fields that decode to an event are its code and its operand. -/
theorem fields_of_decodeFields_eq_ok {op : BitVec 4} {imm : BitVec 28} {i : Instr}
    (h : decodeFields op imm = .ok i) : op.toNat = (opcode i).toNat ∧ imm.toNat = i.operandValue := by
  unfold decodeFields at h
  split at h
  case h_4 hop =>
    obtain rfl := Except.ok.inj h
    exact ⟨hop, rfl⟩
  case h_8 hop =>
    obtain ⟨himm, ch, rfl⟩ := (decodeReset_eq_ok_iff _ _ _).mp h
    exact ⟨hop, himm⟩
  case h_9 => cases h
  all_goals
    next hop =>
      obtain ⟨himm, rfl⟩ := (decodePlain_eq_ok_iff _ _ _ _).mp h
      exact ⟨hop, himm⟩

/-- The rule of R70 for every event at once: a word spells it exactly if `op` is its code and `imm` its operand. -/
theorem decode_eq_ok_iff (w : Word) (i : Instr) :
    decode w = .ok i ↔ w.toNat / 2 ^ 28 = (opcode i).toNat ∧ w.toNat % 2 ^ 28 = i.operandValue := by
  rw [← opField_toNat, ← immField_toNat]
  constructor
  · exact fields_of_decodeFields_eq_ok
  · rintro ⟨hop, himm⟩
    rw [decode, BitVec.eq_of_toNat_eq hop]
    exact decodeFields_opcode i himm

/-- A legal word is the encoding of its event. -/
theorem encode_eq_of_decode_eq_ok {w : Word} {i : Instr} (h : decode w = .ok i) : encode i = w := by
  obtain ⟨hop, himm⟩ := (decode_eq_ok_iff w i).mp h
  apply BitVec.eq_of_toNat_eq
  rw [encode, fields_toNat, operand_toNat, ← himm, ← hop]
  omega

end Sys2Proof

namespace Sys2Proof.Machine

/-- An illegal word raises F_ILLEGAL_EVENT and is consumed, in any mode (R70, R122). -/
theorem step_of_illegal {s : State} {w : Word} {ws : List Word} (hin : s.input = w :: ws)
    (hillegal : ∀ i, decode w ≠ .ok i) : step s = .next (s.enterFault .illegalEvent).consume := by
  rcases step_cases s with ⟨hempty, -⟩ | ⟨v, vs, i, hv, hd, -⟩ | ⟨v, vs, e, -, -, hstep⟩
  · rw [hin] at hempty
    cases hempty
  · rw [hin] at hv
    obtain ⟨rfl, -⟩ := List.cons.inj hv
    exact absurd hd (hillegal i)
  · exact hstep

/-- Settles O53: each event's clause is its case of `decode_eq_ok_iff`, and an illegal word raises its fault. -/
theorem decodeFollowsTheRule : Obligations.DecodeFollowsTheRule := by
  intro w
  refine ⟨decode_eq_ok_iff w .edgeA, decode_eq_ok_iff w .edgeB, decode_eq_ok_iff w .edgeC,
    fun dt => decode_eq_ok_iff w (.tick dt), decode_eq_ok_iff w .render, decode_eq_ok_iff w .encByte,
    decode_eq_ok_iff w .latchEnd, decode_eq_ok_iff w (.reset false), decode_eq_ok_iff w (.reset true), ?_⟩
  intro s ws hin hillegal
  refine ⟨_, step_of_illegal hin hillegal, by simp, ?_⟩
  intro hcode
  rw [State.consume_faultCode, State.enterFault_faultCode, if_pos hcode]
  rfl

end Sys2Proof.Machine

namespace Sys2Proof

/-! The rows of the opcode map (R66). -/

theorem OpcodeRow.matchesWord_iff (row : OpcodeRow) (w : Word) :
    row.matchesWord w = true ↔ w &&& row.mask = row.pattern := by
  simp [OpcodeRow.matchesWord]

/-- A field that the row's mask selects in full is, in a word matching the row, the pattern's. -/
theorem OpcodeRow.field_eq_of_matchesWord {row : OpcodeRow} {w : Word} (start len : Nat)
    (hmask : row.mask.extractLsb' start len = BitVec.allOnes len) (hmatch : row.matchesWord w = true) :
    w.extractLsb' start len = row.pattern.extractLsb' start len := by
  rw [← (row.matchesWord_iff w).mp hmatch, BitVec.extractLsb'_and, hmask, BitVec.and_allOnes]

/-- Every row fixes `op`. -/
theorem opField_eq_of_matchesWord {row : OpcodeRow} {w : Word} (hrow : row ∈ opcodeTable)
    (hmatch : row.matchesWord w = true) : opField w = opField row.pattern := by
  have hmask : ∀ r ∈ opcodeTable, r.mask.extractLsb' 28 4 = BitVec.allOnes 4 := by decide
  exact row.field_eq_of_matchesWord 28 4 (hmask row hrow) hmatch

/-- The rows are disjoint in `op`, so no word matches two of them. -/
theorem matchingRows_length_le_one (w : Word) :
    (opcodeTable.filter (fun row => row.matchesWord w)).length ≤ 1 := by
  have hdisjoint : (opcodeTable.map (fun row => opField row.pattern)).Nodup := by decide
  have hnodup : ((opcodeTable.filter (fun row => row.matchesWord w)).map (fun row => opField row.pattern)).Nodup :=
    hdisjoint.sublist (List.filter_sublist.map _)
  have hsame : (opcodeTable.filter (fun row => row.matchesWord w)).map (fun row => opField row.pattern) =
      List.replicate (opcodeTable.filter (fun row => row.matchesWord w)).length (opField w) := by
    refine List.map_eq_replicate_iff.mpr fun row hrow => ?_
    obtain ⟨hmem, hmatch⟩ := List.mem_filter.mp hrow
    exact (opField_eq_of_matchesWord hmem hmatch).symm
  rw [hsame] at hnodup
  exact List.nodup_replicate.mp hnodup

/-- The word of every event matches the row of its mnemonic. -/
theorem encodesInItsRow (i : Instr) : Laws.EncodesInItsRow.Statement i := by
  cases i with
  | edgeA => exact Laws.EncodesInItsRow.edgeA
  | edgeB => exact Laws.EncodesInItsRow.edgeB
  | edgeC => exact Laws.EncodesInItsRow.edgeC
  | tick dt => exact Laws.EncodesInItsRow.tick dt
  | render => exact Laws.EncodesInItsRow.render
  | encByte => exact Laws.EncodesInItsRow.encByte
  | latchEnd => exact Laws.EncodesInItsRow.latchEnd
  | reset ch => exact Laws.EncodesInItsRow.reset ch

/-- A row that fixes every bit matches its pattern only, so a word that matches it spells what the pattern does. -/
theorem decode_of_matches_plain {name : String} {pattern w : Word} {i : Instr} (hpattern : decode pattern = .ok i)
    (hmatch : OpcodeRow.matchesWord ⟨name, pattern, 0xFFFFFFFF#32⟩ w = true) : decode w = .ok i := by
  have hw : w &&& BitVec.allOnes 32 = pattern := (OpcodeRow.matchesWord_iff _ w).mp hmatch
  rw [BitVec.and_allOnes] at hw
  rwa [hw]

/-- A word that matches TICK's row spells a TICK, whatever its operand. -/
theorem decode_of_matches_tick {w : Word}
    (hmatch : OpcodeRow.matchesWord ⟨"TICK", 0x40000000#32, 0xF0000000#32⟩ w = true) :
    decode w = .ok (.tick (immField w).toNat) := by
  have hop : opField w = opcode (.tick (immField w).toNat) :=
    opField_eq_of_matchesWord (by simp [opcodeTable]) hmatch
  rw [decode, hop]
  exact decodeFields_opcode _ rfl

/-- A word that matches RESET's row spells a RESET with CH_OK its lowest bit. -/
theorem decode_of_matches_reset {w : Word}
    (hmatch : OpcodeRow.matchesWord ⟨"RESET", 0x80000000#32, 0xFFFFFFFE#32⟩ w = true) :
    decode w = .ok (.reset ((immField w).getLsbD 0)) := by
  have hop : opField w = opcode (.reset ((immField w).getLsbD 0)) :=
    opField_eq_of_matchesWord (by simp [opcodeTable]) hmatch
  have hhigh : immHigh (immField w) = 0#27 :=
    calc immHigh (immField w)
        = w.extractLsb' 1 27 := by simp [immHigh, immField, BitVec.extractLsb'_extractLsb'_of_le]
      _ = 0#27 := OpcodeRow.field_eq_of_matchesWord 1 27 (by decide) hmatch
  rw [decode, hop]
  exact decodeFields_opcode _ ((immHigh_eq_zero_iff _).mp hhigh)

/-- A word that matches a row spells an event. -/
theorem legal_of_matchesWord {row : OpcodeRow} {w : Word} (hrow : row ∈ opcodeTable)
    (hmatch : row.matchesWord w = true) : ∃ i, decode w = .ok i := by
  simp only [opcodeTable, List.mem_cons, List.not_mem_nil, or_false] at hrow
  rcases hrow with rfl | rfl | rfl | rfl | rfl | rfl | rfl | rfl
  · exact ⟨.edgeA, decode_of_matches_plain rfl hmatch⟩
  · exact ⟨.edgeB, decode_of_matches_plain rfl hmatch⟩
  · exact ⟨.edgeC, decode_of_matches_plain rfl hmatch⟩
  · exact ⟨_, decode_of_matches_tick hmatch⟩
  · exact ⟨.render, decode_of_matches_plain rfl hmatch⟩
  · exact ⟨.encByte, decode_of_matches_plain rfl hmatch⟩
  · exact ⟨.latchEnd, decode_of_matches_plain rfl hmatch⟩
  · exact ⟨_, decode_of_matches_reset hmatch⟩

/-- A word is legal exactly if some row matches it. -/
theorem legal_iff_exists_matching_row (w : Word) :
    (∃ i, decode w = .ok i) ↔ ∃ row ∈ opcodeTable, row.matchesWord w = true := by
  constructor
  · rintro ⟨i, hdecode⟩
    obtain ⟨row, hrow, -, hmatch⟩ := encodesInItsRow i
    exact ⟨row, hrow, encode_eq_of_decode_eq_ok hdecode ▸ hmatch⟩
  · rintro ⟨row, hrow, hmatch⟩
    exact legal_of_matchesWord hrow hmatch

/-- Settles O54: legal words are those some row matches, and the rows are disjoint. -/
theorem legalWordsMatchOneRow : Obligations.LegalWordsMatchOneRow := by
  intro w
  have hle := matchingRows_length_le_one w
  have hpos : (∃ row ∈ opcodeTable, row.matchesWord w = true) ↔
      0 < (opcodeTable.filter (fun row => row.matchesWord w)).length :=
    List.length_filter_pos_iff.symm
  refine ⟨?_, hle⟩
  rw [legal_iff_exists_matching_row, hpos]
  omega

end Sys2Proof
end

section
/-! The debounce timer and the counter (40_debounce_counter.md): what one EDGE_A, EDGE_B, EDGE_C or TICK does. What the
rules say alike of buttons A and B is said once, over `Tracked`. -/

namespace Sys2Proof.Machine

/-! The saturating functions (R82, R83). -/

theorem satInc_toNat {v : BitVec 4} (h : v.toNat ≤ 9) : (satInc v).toNat = min 9 (v.toNat + 1) := by
  rw [satInc_of_le v h]
  split <;> bv_omega

theorem satDec_toNat {v : BitVec 4} (h : v.toNat ≤ 9) : (satDec v).toNat = v.toNat - 1 := by
  rw [satDec_of_le v h]
  split <;> bv_omega

/-- Settles O16: each function by its value on a digit. -/
theorem saturatingFunctionsOnDigits : Obligations.SaturatingFunctionsOnDigits :=
  fun _ h => ⟨satInc_toNat h, satDec_toNat h⟩

/-- The increment of a digit changes it below the clamp only. -/
theorem satInc_ne_iff {v : BitVec 4} (h : v ≤ 9#4) : satInc v ≠ v ↔ v < 9#4 := by
  rw [satInc_of_le v h]
  split <;> bv_omega

/-- The decrement of a digit changes it above the clamp only. -/
theorem satDec_ne_iff {v : BitVec 4} (h : v ≤ 9#4) : satDec v ≠ v ↔ v > 0#4 := by
  rw [satDec_of_le v h]
  split <;> bv_omega

/-! Buttons A and B alike. -/

/-- The other button with a debounce timer. -/
def Tracked.other : Tracked → Tracked
  | .a => .b
  | .b => .a

/-- `last_X`, the time of the button's last accepted edge (R26, R27). -/
def Tracked.lastMs (s : State) : Tracked → Nat
  | .a => s.lastAMs
  | .b => s.lastBMs

/-- Writing `now` to `last_X`. -/
def Tracked.stamp (now : Nat) (s : State) : Tracked → State
  | .a => { s with lastAMs := now }
  | .b => { s with lastBMs := now }

/-- The button's function on the counter (R82, R83). -/
def Tracked.nextCount : Tracked → BitVec 4 → BitVec 4
  | .a => satInc
  | .b => satDec

/-- What an accepted edge of the button leaves (R85, R86). -/
def Tracked.accepted (cfg : Config) (s : State) : Tracked → State
  | .a => s.acceptedA cfg
  | .b => s.acceptedB cfg

theorem Tracked.accepts_iff (x : Tracked) (cfg : Config) (s : State) :
    x.accepts cfg s = true ↔ s.mode = .run ∧ cfg.debounceMs ≤ s.nowMs - x.lastMs s := by
  cases x with
  | a => exact acceptsA_iff cfg s
  | b => exact acceptsB_iff cfg s

/-- An accepted edge writes the button's timestamp, the counter and `redraw_flag`, and no other register. -/
theorem Tracked.accepted_eq (x : Tracked) (cfg : Config) (s : State) :
    x.accepted cfg s =
      { x.stamp s.nowMs s with
        counter := x.nextCount s.counter
        redrawFlag := s.redrawFlag || redrawRequested cfg s.counter (x.nextCount s.counter) } := by
  cases x <;> rfl

theorem apply_edge_of_accepts {x : Tracked} {cfg : Config} {s : State} (h : x.accepts cfg s = true) :
    apply cfg x.edge s = .took (x.accepted cfg s) := by
  cases x <;> exact if_pos h

theorem apply_edge_of_rejects {x : Tracked} {cfg : Config} {s : State} (h : x.accepts cfg s = false) :
    apply cfg x.edge s = .took s := by
  cases x <;> exact if_neg (Bool.eq_false_iff.mp h)

theorem exec_edge_of_accepts {x : Tracked} {s : State} (h : x.accepts Config.hardware s = true) :
    exec x.edge s = .next (x.accepted Config.hardware s).consume := by
  rw [exec_eq_settle, apply_edge_of_accepts h, settle_took]

theorem exec_edge_of_rejects {x : Tracked} {s : State} (h : x.accepts Config.hardware s = false) :
    exec x.edge s = .next s.consume := by
  rw [exec_eq_settle, apply_edge_of_rejects h, settle_took]

/-! The redraw request (R84). -/

theorem redrawRequested_iff (cfg : Config) (old new : BitVec 4) :
    redrawRequested cfg old new = true ↔ new ≠ old ∨ cfg.redrawOnClamp = true := by
  simp [redrawRequested]

/-- On this hardware a redraw is asked for exactly if the counter changed. -/
theorem redrawRequested_hardware (old new : BitVec 4) :
    redrawRequested Config.hardware old new = decide (new ≠ old) := by
  rw [Bool.eq_iff_iff, redrawRequested_iff]
  simp

theorem Tracked.accepted_redrawFlag_iff (x : Tracked) (cfg : Config) (s : State) :
    (x.accepted cfg s).redrawFlag = true ↔
      s.redrawFlag = true ∨ (x.accepted cfg s).counter ≠ s.counter ∨ cfg.redrawOnClamp = true := by
  rw [Tracked.accepted_eq, Bool.or_eq_true, redrawRequested_iff]

/-- Settles O17: what an accepted edge of either button leaves in the flag, and that a rejected one leaves the state. -/
theorem redrawIsRequestedOnChange : Obligations.RedrawIsRequestedOnChange := by
  intro cfg s
  have haccepted (x : Tracked) (h : x.accepts cfg s = true) : ∃ t, apply cfg x.edge s = .took t ∧
      (t.redrawFlag = true ↔ s.redrawFlag = true ∨ t.counter ≠ s.counter ∨ cfg.redrawOnClamp = true) :=
    ⟨_, apply_edge_of_accepts h, x.accepted_redrawFlag_iff cfg s⟩
  exact ⟨haccepted .a, haccepted .b, apply_edge_of_rejects (x := .a), apply_edge_of_rejects (x := .b)⟩

/-! The rules of EDGE_A and EDGE_B (R85, R86). -/

/-- One edge of either button on this hardware: the two tests of R78 and R89, and the state in each case. -/
theorem exec_edge (x : Tracked) (s : State) :
    exec x.edge s = .next
      (if s.mode = .run ∧ s.clockUs / 1000 - x.lastMs s ≥ 500 then
        { x.stamp (s.clockUs / 1000) s with
          counter := x.nextCount s.counter
          redrawFlag := s.redrawFlag || decide (x.nextCount s.counter ≠ s.counter)
          input := s.input.tail }
      else { s with input := s.input.tail }) := by
  have hiff : x.accepts Config.hardware s = true ↔ s.mode = .run ∧ s.clockUs / 1000 - x.lastMs s ≥ 500 :=
    x.accepts_iff Config.hardware s
  split
  next h =>
    rw [exec_edge_of_accepts (hiff.mpr h), Tracked.accepted_eq, redrawRequested_hardware]
    cases x <;> rfl
  next h =>
    rw [exec_edge_of_rejects (Bool.eq_false_iff.mpr (mt hiff.mp h))]
    rfl

/-- Settles O7: button A's case of `exec_edge`, with the value of `sat_inc` on a digit and where it changes one. -/
theorem edgeAFollowsItsRule : Obligations.EdgeAFollowsItsRule := by
  intro s hdigit _
  have hvalue := satInc_of_le s.counter hdigit
  have hchanged : decide (satInc s.counter ≠ s.counter) = decide (s.counter < 9#4) :=
    decide_eq_decide.mpr (satInc_ne_iff hdigit)
  have h := exec_edge .a s
  rw [Tracked.nextCount, hchanged, hvalue] at h
  exact h

/-- Settles O8: button B's case of `exec_edge`, with the value of `sat_dec` on a digit and where it changes one. -/
theorem edgeBFollowsItsRule : Obligations.EdgeBFollowsItsRule := by
  intro s hdigit _
  have hvalue := satDec_of_le s.counter hdigit
  have hchanged : decide (satDec s.counter ≠ s.counter) = decide (s.counter > 0#4) :=
    decide_eq_decide.mpr (satDec_ne_iff hdigit)
  have h := exec_edge .b s
  rw [Tracked.nextCount, hchanged, hvalue] at h
  exact h

/-- R93: where the counter clamps, an accepted edge writes its timestamp and nothing else. -/
theorem exec_edge_of_clamps {x : Tracked} {s : State} (hmode : s.mode = .run)
    (htime : x.lastMs s + 500 ≤ s.clockUs / 1000) (hclamp : x.nextCount s.counter = s.counter) :
    exec x.edge s = .next (x.stamp (s.clockUs / 1000) s).consume := by
  rw [exec_edge, if_pos ⟨hmode, by omega⟩, hclamp]
  cases x <;> simp [Tracked.stamp, State.consume]

/-- Settles O18: 9 is the clamp of `sat_inc` and 0 that of `sat_dec`. -/
theorem clampedEdgeStampsItsTime : Obligations.ClampedEdgeStampsItsTime := by
  intro s hmode
  constructor
  · intro hcounter htime
    have hclamp : satInc s.counter = s.counter := by rw [hcounter]; rfl
    exact exec_edge_of_clamps (x := .a) hmode htime hclamp
  · intro hcounter htime
    have hclamp : satDec s.counter = s.counter := by rw [hcounter]; rfl
    exact exec_edge_of_clamps (x := .b) hmode htime hclamp

/-! EDGE_C and TICK (R87, R88). -/

theorem exec_edgeC_of_run {s : State} (h : s.mode = .run) : exec .edgeC s = .next s.enterUpdate.consume := by
  have happly : apply Config.hardware .edgeC s = .took s.enterUpdate := if_pos h
  rw [exec_eq_settle, happly, settle_took]

theorem exec_edgeC_of_not_run {s : State} (h : s.mode ≠ .run) : exec .edgeC s = .next s.consume := by
  have happly : apply Config.hardware .edgeC s = .took s := if_neg h
  rw [exec_eq_settle, happly, settle_took]

/-- Settles O9, by the mode. -/
theorem edgeCFollowsItsRule : Obligations.EdgeCFollowsItsRule := by
  intro s
  by_cases hmode : s.mode = .run
  · refine ⟨_, exec_edgeC_of_run hmode, ?_, fun _ => rfl⟩
    rw [if_pos hmode]
    rfl
  · refine ⟨_, exec_edgeC_of_not_run hmode, ?_, fun hrun => absurd hrun hmode⟩
    rw [if_neg hmode]
    rfl

theorem exec_tick (dt : Nat) (s : State) : exec (.tick dt) s = .next (s.advanceClock dt).consume :=
  exec_eq_settle (.tick dt) s

/-- Settles O10: TICK has one case, whatever the mode. -/
theorem tickFollowsItsRule : Obligations.TickFollowsItsRule :=
  fun s dt => exec_tick dt s

/-! The timestamp of the other button (R81). -/

@[simp] theorem Tracked.accepts_stamp_other (x : Tracked) (cfg : Config) (y : Nat) (s : State) :
    x.accepts cfg (x.other.stamp y s) = x.accepts cfg s := by
  cases x <;> rfl

@[simp] theorem Tracked.accepted_stamp_other (x : Tracked) (cfg : Config) (y : Nat) (s : State) :
    x.accepted cfg (x.other.stamp y s) = x.other.stamp y (x.accepted cfg s) := by
  cases x <;> rfl

@[simp] theorem Tracked.accepted_lastMs_other (x : Tracked) (cfg : Config) (s : State) :
    x.other.lastMs (x.accepted cfg s) = x.other.lastMs s := by
  cases x <;> rfl

@[simp] theorem Tracked.stamp_consume (x : Tracked) (y : Nat) (s : State) :
    x.stamp y s.consume = (x.stamp y s).consume := by
  cases x <;> rfl

@[simp] theorem Tracked.lastMs_consume (x : Tracked) (s : State) : x.lastMs s.consume = x.lastMs s := by
  cases x <;> rfl

/-- An edge of one button, accepted or rejected, keeps the other's timestamp, and with another value there does the same
and keeps that. -/
theorem exec_edge_ignores_other {x : Tracked} {s t : State} (y : Nat) (h : exec x.edge s = .next t) :
    x.other.lastMs t = x.other.lastMs s ∧ exec x.edge (x.other.stamp y s) = .next (x.other.stamp y t) := by
  cases haccepts : x.accepts Config.hardware s with
  | true =>
    cases (exec_edge_of_accepts haccepts).symm.trans h
    simp [exec_edge_of_accepts, haccepts]
  | false =>
    cases (exec_edge_of_rejects haccepts).symm.trans h
    simp [exec_edge_of_rejects, haccepts]

/-- EDGE_C, granted or not, keeps both timestamps, and with other values there does the same and keeps those. -/
theorem exec_edgeC_ignores_last {s t : State} (x y : Nat) (h : exec .edgeC s = .next t) :
    t.lastAMs = s.lastAMs ∧ t.lastBMs = s.lastBMs ∧
      exec .edgeC { s with lastAMs := x, lastBMs := y } = .next { t with lastAMs := x, lastBMs := y } := by
  by_cases hmode : s.mode = .run
  · cases (exec_edgeC_of_run hmode).symm.trans h
    exact ⟨rfl, rfl, exec_edgeC_of_run hmode⟩
  · cases (exec_edgeC_of_not_run hmode).symm.trans h
    exact ⟨rfl, rfl, exec_edgeC_of_not_run hmode⟩

/-- Settles O20: an edge of A or B ignores the other button's timestamp, and EDGE_C, which has no debounce, both. -/
theorem debounceIsPerButton : Obligations.DebounceIsPerButton :=
  fun _ x y => ⟨fun _ => exec_edge_ignores_other (x := .a) y, fun _ => exec_edge_ignores_other (x := .b) x,
    fun _ => exec_edgeC_ignores_last x y⟩

end Sys2Proof.Machine
end

section
/-! The render loop (41_glyph_render.md): when RENDER holds and what lifts the hold (R101), and the boot draw (R99). -/

namespace Sys2Proof.Machine

/-! RENDER where it holds and where it draws (R98). -/

theorem renderHeld_iff (s : State) : s.renderHeld = true ↔ s.mode ≠ .run ∨ s.encPhase ≠ .idle := by
  simp [State.renderHeld]

theorem exec_render_of_held {s : State} (h : s.renderHeld = true) : exec .render s = .next s := by
  have happly : apply Config.hardware .render s = .hold := if_pos h
  rw [exec_eq_settle, happly, settle_hold]

theorem applyRender_of_draws {cfg : Config} {s : State} {d : Fin 10} (h : s.draws d) :
    applyRender cfg s = .took (s.clearPending.startFrame (frameBuffer cfg d)) := by
  obtain ⟨hheld, hpending, hdigit⟩ := h
  simp [applyRender, hheld, hpending, glyphFor, hdigit, frameBuffer]

/-! What the changes of an event keep. -/

/-- An executed event, taken or held, leaves one of its changes, up to the words still to come. -/
theorem exec_change_up_to_input {i : Instr} {s t : State} (h : exec i s = .next t) :
    ∃ u ws, EventChange Config.hardware s i u ∧ t = { u with input := ws } := by
  rcases exec_change i s t h with ⟨-, rfl⟩ | ⟨-, u, hu, rfl⟩
  · exact ⟨t, t.input, .unchanged i, rfl⟩
  · exact ⟨u, u.input.tail, hu, rfl⟩

/-- The encoder returns to IDLE by LATCH_END or RESET only. -/
theorem EventChange.latchEnd_or_reset_of_idle {cfg : Config} {s t : State} {i : Instr} (h : EventChange cfg s i t)
    (hs : s.encPhase ≠ .idle) (ht : t.encPhase = .idle) : i = .latchEnd ∨ ∃ ch, i = .reset ch := by
  cases h with
  | release => exact .inl rfl
  | resetGood | resetFailed => exact .inr ⟨_, rfl⟩
  | draw | lastByte => simp at ht
  | unchanged | acceptedA | acceptedB | update | time | idle | digitFault | byte => exact absurd ht hs

/-- The block returns to RUN by RESET only. -/
theorem EventChange.reset_of_run {cfg : Config} {s t : State} {i : Instr} (h : EventChange cfg s i t)
    (hs : s.mode ≠ .run) (ht : t.mode = .run) : ∃ ch, i = .reset ch := by
  cases h with
  | resetGood | resetFailed => exact ⟨_, rfl⟩
  | update | digitFault => simp at ht
  | unchanged | acceptedA | acceptedB | time | idle | draw | lastByte | byte | release => exact absurd ht hs

/-- RENDER alone draws, so where it holds only RESET writes the buffer. -/
theorem EventChange.buf_eq_of_renderHeld {cfg : Config} {s t : State} {i : Instr} (h : EventChange cfg s i t)
    (hheld : s.renderHeld = true) (hreset : ∀ ch, i ≠ .reset ch) : t.buf = s.buf := by
  cases h with
  | resetGood | resetFailed => exact absurd rfl (hreset _)
  | draw d hdraws =>
    obtain ⟨hfree, -⟩ := hdraws
    rw [hheld] at hfree
    cases hfree
  | unchanged | acceptedA | acceptedB | update | time | idle | digitFault | lastByte | byte | release => rfl

/-- Settles O30: each hold is R98's guard, and what lifts it or writes the buffer is read off the changes of an event. -/
theorem renderHoldsUntilLifted : Obligations.RenderHoldsUntilLifted := by
  intro s
  refine ⟨fun hphase => ⟨exec_render_of_held ((renderHeld_iff s).mpr (.inr hphase)), ?_⟩,
    fun hmode => ⟨exec_render_of_held ((renderHeld_iff s).mpr (.inl hmode)), ?_⟩, ?_⟩
  · intro i t hexec hidle
    obtain ⟨u, ws, hchange, rfl⟩ := exec_change_up_to_input hexec
    exact hchange.latchEnd_or_reset_of_idle hphase hidle
  · intro i t hexec hrun
    obtain ⟨u, ws, hchange, rfl⟩ := exec_change_up_to_input hexec
    exact hchange.reset_of_run hmode hrun
  · intro hstopped i t hexec hreset
    obtain ⟨u, ws, hchange, rfl⟩ := exec_change_up_to_input hexec
    exact hchange.buf_eq_of_renderHeld ((renderHeld_iff s).mpr hstopped.symm) hreset

/-! The boot draw. -/

/-- The counter stays a digit over every event: the saturating functions keep it one, and RESET writes 0. -/
theorem EventChange.counter_toNat_le {cfg : Config} {s t : State} {i : Instr} (h : EventChange cfg s i t)
    (hs : s.counter.toNat ≤ 9) : t.counter.toNat ≤ 9 := by
  cases h with
  | acceptedA => exact (satInc_toNat hs).trans_le (Nat.min_le_left ..)
  | acceptedB => exact (satDec_toNat hs).trans_le ((Nat.sub_le ..).trans hs)
  | resetGood | resetFailed => exact Nat.zero_le 9
  | unchanged | update | time | idle | draw | digitFault | lastByte | byte | release => exact hs

/-- The block between a reset and its first RENDER: the boot draw is pending, no frame has been started since the reset,
when `frames` was `since`, and the counter is a digit. -/
structure AwaitsBootFrame (since : Nat) (s : State) : Prop where
  counter_le : s.counter.toNat ≤ 9
  boot : s.bootPending = true
  phase : s.encPhase = .idle
  frames_eq : s.frames = since

theorem awaitsBootFrame_resetRegisters (cfg : Config) (s : State) :
    AwaitsBootFrame s.frames (s.resetRegisters cfg) :=
  ⟨Nat.zero_le 9, rfl, rfl, rfl⟩

/-- Only RENDER and RESET end the wait: with the encoder in IDLE, ENC_BYTE holds. -/
theorem AwaitsBootFrame.eventChange {cfg : Config} {since : Nat} {s t : State} {i : Instr}
    (hs : AwaitsBootFrame since s) (h : EventChange cfg s i t) (hrender : i ≠ .render)
    (hreset : ∀ ch, i ≠ .reset ch) : AwaitsBootFrame since t := by
  have hcounter := h.counter_toNat_le hs.counter_le
  cases h with
  | unchanged => exact hs
  | acceptedA | acceptedB | update | time => exact ⟨hcounter, hs.boot, hs.phase, hs.frames_eq⟩
  | release => exact ⟨hcounter, hs.boot, rfl, hs.frames_eq⟩
  | idle | draw | digitFault => exact absurd rfl hrender
  | lastByte hfree | byte hfree =>
    obtain ⟨-, hsend⟩ := (encByteHeld_false_iff s).mp hfree
    rw [hs.phase] at hsend
    cases hsend
  | resetGood | resetFailed => exact absurd rfl (hreset _)

theorem AwaitsBootFrame.afterWord {cfg : Config} {since : Nat} {s : State} {w : Word} (hs : AwaitsBootFrame since s)
    (hreset : spellsReset w = false) (hrender : spells w .render = false) :
    AwaitsBootFrame since (afterWord cfg w s) := by
  rcases wordChange cfg w s with ⟨i, hdecode, hchange⟩ | ⟨e, -, hfault⟩
  · refine hs.eventChange hchange ?_ ?_
    · rintro rfl
      exact Bool.eq_false_iff.mp hrender ((spells_iff w .render).mpr hdecode)
    · rintro ch rfl
      exact (spellsReset_false_iff w).mp hreset ch hdecode
  · rw [hfault]
    exact ⟨hs.counter_le, hs.boot, hs.phase, hs.frames_eq⟩

theorem AwaitsBootFrame.deliverAll {cfg : Config} {since : Nat} {s : State} {ws : List Word}
    (hs : AwaitsBootFrame since s) (hreset : NoReset ws) (hrender : ∀ w ∈ ws, spells w .render = false) :
    AwaitsBootFrame since (deliverAll cfg ws s) :=
  deliverAll_keeps cfg (fun w => spellsReset w = false ∧ spells w .render = false)
    (fun s t => AwaitsBootFrame since s → AwaitsBootFrame since t) (fun _ => id) (fun _ _ _ hst htu => htu ∘ hst)
    (fun _ _ ⟨hwreset, hwrender⟩ hu => hu.afterWord hwreset hwrender)
    ws s (fun w hw => ⟨hreset w hw, hrender w hw⟩) hs

/-- In RUN the wait ends with a RENDER that draws, whatever `redraw_flag` is. -/
theorem AwaitsBootFrame.exists_draws {since : Nat} {s : State} (hs : AwaitsBootFrame since s) (hmode : s.mode = .run) :
    ∃ d : Fin 10, s.counter.toNat = d.val ∧ s.draws d := by
  have hfree : s.renderHeld = false := (renderHeld_false_iff s).mpr ⟨hmode, hs.phase⟩
  have hpending : s.drawPending = true := by simp [State.drawPending, hs.boot]
  have hdigit : s.counter.toNat < 10 := Nat.lt_succ_of_le hs.counter_le
  exact ⟨⟨s.counter.toNat, hdigit⟩, rfl, hfree, hpending, digitOf_of_le s.counter hdigit⟩

/-- Settles O29: the block awaits its boot frame until the first RENDER, which then draws the counter's digit. -/
theorem bootFrameShowsTheCounter : Obligations.BootFrameShowsTheCounter := by
  intro s ws hreset hrender hmode
  have hawaits : AwaitsBootFrame s.frames (deliverAll Config.hardware ws (s.resetRegisters Config.hardware)) :=
    (awaitsBootFrame_resetRegisters Config.hardware s).deliverAll hreset hrender
  obtain ⟨d, hdigit, hdraws⟩ := hawaits.exists_draws hmode
  refine ⟨d, hdigit, (applyRender_of_draws hdraws).trans ?_⟩
  rw [← hawaits.frames_eq]
  rfl

end Sys2Proof.Machine
end

section
/-! The LED encoder (42_led_encoder.md): what one ENC_BYTE or LATCH_END does on this hardware (R105 to R107). -/

namespace Sys2Proof.Machine

/-! ENC_BYTE (R105, R106). -/

theorem encByteHeld_iff (s : State) : s.encByteHeld = true ↔ s.mode ≠ .run ∨ s.encPhase ≠ .send := by
  simp [State.encByteHeld]

theorem exec_encByte_of_held {s : State} (h : s.encByteHeld = true) : exec .encByte s = .next s := by
  have happly : apply Config.hardware .encByte s = .hold := if_pos h
  rw [exec_eq_settle, happly, settle_hold]

/-- In RUN and SEND the byte is written first, then the encoder is updated, then the word is consumed. -/
theorem exec_encByte_of_not_held {s : State} (h : s.encByteHeld = false) :
    exec .encByte s =
      .next ((s.sinkWrite (encByteAt s.buf s.encK)).afterByte Config.hardware).consume := by
  have happly : apply Config.hardware .encByte s =
      .took ((s.sinkWrite (encByteAt s.buf s.encK)).afterByte Config.hardware) :=
    if_neg (Bool.eq_false_iff.mp h)
  rw [exec_eq_settle, happly, settle_took]

/-- The last index of a frame of 25 cells. -/
theorem isLastByte_hardware_iff (k : BitVec 7) : isLastByte Config.hardware k = true ↔ k = 74#7 :=
  (isLastByte_iff Config.hardware k).trans (BitVec.toNat_inj (y := 74#7))

/-- At index 74, ENC_BYTE starts the latch window. -/
theorem exec_encByte_of_last {s : State} (hheld : s.encByteHeld = false) (hk : s.encK = 74#7) :
    exec .encByte s = .next (s.sinkWrite (encByteAt s.buf s.encK)).startLatch.consume := by
  rw [exec_encByte_of_not_held hheld, State.afterByte, State.sinkWrite_encK,
    if_pos ((isLastByte_hardware_iff _).mpr hk)]

/-- At every other index, ENC_BYTE moves on to the next. -/
theorem exec_encByte_of_not_last {s : State} (hheld : s.encByteHeld = false) (hk : s.encK ≠ 74#7) :
    exec .encByte s = .next (s.sinkWrite (encByteAt s.buf s.encK)).nextByte.consume := by
  rw [exec_encByte_of_not_held hheld, State.afterByte, State.sinkWrite_encK,
    if_neg (mt (isLastByte_hardware_iff _).mp hk)]

/-- The case distinction of R105: green, red, blue. -/
theorem channelGRB_eq_ite (c : Colour) (j : Nat) :
    channelGRB c j = if j = 0 then c.g else if j = 1 then c.r else c.b := by
  match j with
  | 0 => rfl
  | 1 => rfl
  | j + 2 => rfl

/-- Settles O12: a legal index selects a cell of the buffer; byte 74 is that cell's blue and starts the latch window, every
other byte moves to an index that 7 bits hold. -/
theorem encByteFollowsItsRule : Obligations.EncByteFollowsItsRule := by
  intro s hlen hindex
  refine ⟨fun hheld => exec_encByte_of_held ((encByteHeld_iff s).mpr hheld), fun hmode hphase => ?_⟩
  have hlegal : s.encK.toNat < 75 := hindex hphase
  have hcell : s.encK.toNat / 3 < s.buf.length := by omega
  have hentry : s.buf[s.encK.toNat / 3]? = some s.buf[s.encK.toNat / 3] := List.getElem?_eq_getElem hcell
  refine ⟨s.buf[s.encK.toNat / 3], hentry, ?_⟩
  have hbyte := encByteAt_of_cell s.buf s.encK _ hentry
  have hfree : s.encByteHeld = false := (encByteHeld_false_iff s).mpr ⟨hmode, hphase⟩
  split
  next hlast =>
    have hblue : s.encK.toNat % 3 = 2 := by rw [hlast]; rfl
    rw [exec_encByte_of_last hfree hlast, hbyte, hblue]
    rfl
  next hnotLast =>
    have hnext : nextIndex s.encK = s.encK + 1#7 := nextIndex_eq_add (by omega)
    rw [exec_encByte_of_not_last hfree hnotLast, hbyte, channelGRB_eq_ite, ← hnext]
    rfl

/-! LATCH_END (R107). -/

theorem exec_latchEnd_of_held {s : State} (h : s.latchEndHeld Config.hardware = true) :
    exec .latchEnd s = .next s := by
  have happly : apply Config.hardware .latchEnd s = .hold := if_pos h
  rw [exec_eq_settle, happly, settle_hold]

theorem exec_latchEnd_of_not_held {s : State} (h : s.latchEndHeld Config.hardware = false) :
    exec .latchEnd s = .next s.releaseLatch.consume := by
  have happly : apply Config.hardware .latchEnd s = .took s.releaseLatch := if_neg (Bool.eq_false_iff.mp h)
  rw [exec_eq_settle, happly, settle_took]

/-- Settles O13: the hold ends where `latchEndHeld_false_iff` says, at the hardware's 100 µs; RESET_US is a lower bound that
the release may meet exactly. -/
theorem latchEndFollowsItsRule : Obligations.LatchEndFollowsItsRule := by
  intro s _
  have hfree : s.latchEndHeld Config.hardware = false ↔
      s.mode = .run ∧ s.encPhase = .latch ∧ s.clockUs - s.latchStartUs ≥ 100 :=
    latchEndHeld_false_iff Config.hardware s
  split
  next hreleased => exact exec_latchEnd_of_not_held (hfree.mpr hreleased)
  next hheld => exact exec_latchEnd_of_held (Bool.eq_true_of_not_eq_false (mt hfree.mp hheld))

end Sys2Proof.Machine
end

section
/-! Encoding and decoding as inverses (30_encoding.md sections 1 to 4), and the words that spell no event. -/

namespace Sys2Proof

/-! Both round trips. -/

/-- The operand of a well-formed event fits the 28 bits of `imm` (R63, R64, R65). -/
theorem Instr.operandValue_lt {i : Instr} (hwf : i.WellFormed) : i.operandValue < 2 ^ 28 := by
  cases i with
  | tick dt => exact of_decide_eq_true hwf
  | reset ch => cases ch <;> simp [Instr.operandValue]
  | edgeA | edgeB | edgeC | render | encByte | latchEnd => simp [Instr.operandValue]

/-- An operand that fits `imm` is the operand of a well-formed event. -/
theorem Instr.wellFormed_of_operandValue_lt {i : Instr} (hlt : i.operandValue < 2 ^ 28) : i.WellFormed := by
  cases i with
  | tick dt => exact decide_eq_true hlt
  | edgeA | edgeB | edgeC | render | encByte | latchEnd | reset => rfl

theorem decode_encode {i : Instr} (hwf : i.WellFormed) : decode (encode i) = .ok i := by
  have hoperand : (operand i).toNat = i.operandValue := by
    rw [operand_toNat, Nat.mod_eq_of_lt (Instr.operandValue_lt hwf)]
  rw [decode, encode, opField_append, immField_append]
  exact decodeFields_opcode i hoperand

/-- Settles O55: the fields of an encoded event are its code and, since it fits, its operand. -/
theorem decodeOfEncode : Obligations.DecodeOfEncode :=
  fun _ hwf => decode_encode hwf

theorem wellFormed_of_decode_eq_ok {w : Word} {i : Instr} (h : decode w = .ok i) : i.WellFormed := by
  obtain ⟨-, himm⟩ := (decode_eq_ok_iff w i).mp h
  exact Instr.wellFormed_of_operandValue_lt (himm ▸ Nat.mod_lt _ (by decide))

/-- Settles O56: the decoded operand is a remainder by 2^28, and the word is its two fields. -/
theorem encodeOfDecode : Obligations.EncodeOfDecode :=
  fun _ _ h => ⟨wellFormed_of_decode_eq_ok h, encode_eq_of_decode_eq_ok h⟩

/-- Settles O52: every word of the list is the encoding of its event. -/
theorem sampleWordsDecode : Obligations.SampleWordsDecode :=
  ⟨decode_encode (i := .edgeA) rfl, decode_encode (i := .edgeB) rfl, decode_encode (i := .edgeC) rfl,
    decode_encode (i := .tick 500000) rfl, decode_encode (i := .tick 268435455) rfl, decode_encode (i := .render) rfl,
    decode_encode (i := .encByte) rfl, decode_encode (i := .latchEnd) rfl, decode_encode (i := .reset true) rfl,
    decode_encode (i := .reset false) rfl⟩

/-! Reserved codes and must-be-zero bits (R67, R68). -/

/-- The fields of a legal word: a code of R66, with `imm` zero for the events without operand and at most 1 for RESET. -/
theorem fields_of_legal {w : Word} {i : Instr} (h : decode w = .ok i) :
    (w.toNat / 2 ^ 28 ∈ [1, 2, 3, 5, 6, 7] ∧ w.toNat % 2 ^ 28 = 0) ∨ w.toNat / 2 ^ 28 = 4 ∨
      (w.toNat / 2 ^ 28 = 8 ∧ w.toNat % 2 ^ 28 ≤ 1) := by
  obtain ⟨hop, himm⟩ := (decode_eq_ok_iff w i).mp h
  rw [hop, himm]
  cases i with
  | tick dt => exact .inr (.inl rfl)
  | reset ch => exact .inr (.inr ⟨rfl, by cases ch <;> decide⟩)
  | edgeA | edgeB | edgeC | render | encByte | latchEnd => exact .inl ⟨by simp [opcode], rfl⟩

namespace Machine

/-- Settles O2: such fields are those of no legal word, and an illegal word raises its fault whatever the mode. -/
theorem illegalWordRaisesItsFault : Obligations.IllegalWordRaisesItsFault := by
  intro s w ws hin hfields
  have hillegal : ∀ i, decode w ≠ .ok i := by
    intro i hdecode
    have hlegal := fields_of_legal hdecode
    simp only [List.mem_cons, List.not_mem_nil, or_false] at hlegal hfields
    omega
  rw [step_of_illegal hin hillegal, State.consume, State.enterFault_input, hin]
  rfl

end Machine

end Sys2Proof
end

section
/-! One RENDER (41_glyph_render.md rules R94, R98): its effect in each of its four cases. -/

namespace Sys2Proof.Machine

theorem applyRender_of_held {cfg : Config} {s : State} (hheld : s.renderHeld = true) : applyRender cfg s = .hold :=
  if_pos hheld

/-- With nothing pending, the iteration is idle (R100). -/
theorem applyRender_of_nothing_pending {cfg : Config} {s : State} (hfree : s.renderHeld = false)
    (hnothing : s.drawPending = false) : applyRender cfg s = .took s.clearPending := by
  simp [applyRender, hfree, hnothing]

/-- With something pending and a counter that is no digit, RENDER raises F_DIGIT_RANGE (R94). -/
theorem applyRender_of_no_digit {cfg : Config} {s : State} (hfree : s.renderHeld = false)
    (hpending : s.drawPending = true) (hdigit : digitOf s.counter = none) :
    applyRender cfg s = .raised .digitRange := by
  simp [applyRender, hfree, hpending, glyphFor, hdigit]

theorem drawPending_iff (s : State) : s.drawPending = true ↔ s.redrawFlag = true ∨ s.bootPending = true := by
  simp [State.drawPending]

theorem digitOf_eq_some_iff (v : BitVec 4) (d : Fin 10) : digitOf v = some d ↔ v.toNat = d.val := by
  by_cases h : v.toNat < 10
  · simp [digitOf, h, Fin.ext_iff]
  · have hd := d.isLt
    simp only [digitOf, h, dite_false, reduceCtorEq, false_iff]
    omega

/-- When RENDER draws a digit, in terms of the registers. -/
theorem draws_iff (s : State) (d : Fin 10) :
    s.draws d ↔ (s.mode = .run ∧ s.encPhase = .idle) ∧ (s.redrawFlag = true ∨ s.bootPending = true) ∧
      s.counter.toNat = d.val := by
  rw [State.draws, renderHeld_false_iff, drawPending_iff, digitOf_eq_some_iff]

/-- Where nothing is pending, both bits are already clear. -/
theorem clearPending_of_nothing_pending {s : State} (hredraw : s.redrawFlag = false) (hboot : s.bootPending = false) :
    s.clearPending = s := by
  cases s
  cases hredraw
  cases hboot
  rfl

/-- Settles O11, one case of RENDER's effect for each clause. -/
theorem renderFollowsItsRule : Obligations.RenderFollowsItsRule := by
  intro s
  refine ⟨fun hstopped => exec_render_of_held ((renderHeld_iff s).mpr hstopped), ?_, ?_, ?_⟩
  · intro hmode hphase hredraw hboot
    have heffect : apply Config.hardware .render s = .took s.clearPending :=
      applyRender_of_nothing_pending ((renderHeld_false_iff s).mpr ⟨hmode, hphase⟩)
        (by simp [State.drawPending, hredraw, hboot])
    rw [exec_eq_settle, heffect, settle_took, clearPending_of_nothing_pending hredraw hboot]
    rfl
  · intro hmode hphase hpending d hdigit
    have heffect : apply Config.hardware .render s = .took (s.clearPending.startFrame (frameBuffer Config.hardware d)) :=
      applyRender_of_draws ((draws_iff s d).mpr ⟨⟨hmode, hphase⟩, hpending, hdigit⟩)
    rw [exec_eq_settle, heffect, settle_took]
    rfl
  · intro hmode hphase hpending hrange
    have heffect : apply Config.hardware .render s = .raised .digitRange :=
      applyRender_of_no_digit ((renderHeld_false_iff s).mpr ⟨hmode, hphase⟩) ((drawPending_iff s).mpr hpending)
        (digitOf_of_gt s.counter hrange)
    rw [exec_eq_settle, heffect, settle_raised]
    rfl

end Sys2Proof.Machine
end

section
/-! Steps (00_scope.md section 4): the step is the event at the head of the input, and as many steps as words are the run
of the list. -/

namespace Sys2Proof.Machine

/-! One step. -/

theorem step_of_decode {s : State} {w : Word} {ws : List Word} {i : Instr} (hin : s.input = w :: ws)
    (hdecode : decode w = .ok i) : step s = exec i s := by
  rcases step_cases s with ⟨hempty, -⟩ | ⟨v, vs, j, hv, hj, hstep⟩ | ⟨v, vs, e, hv, he, -⟩
  · rw [hin] at hempty
    cases hempty
  · obtain ⟨rfl, -⟩ := List.cons.inj (hin.symm.trans hv)
    cases hdecode.symm.trans hj
    exact hstep
  · obtain ⟨rfl, -⟩ := List.cons.inj (hin.symm.trans hv)
    cases hdecode.symm.trans he

theorem step_of_encode {s : State} {ws : List Word} {i : Instr} (hwf : i.WellFormed) (hin : s.input = encode i :: ws) :
    step s = exec i s :=
  step_of_decode hin (decode_encode hwf)

theorem step_of_empty {s : State} (hin : s.input = []) : step s = .next s := by
  rcases step_cases s with ⟨-, hstep⟩ | ⟨w, ws, i, hw, -⟩ | ⟨w, ws, e, hw, -⟩
  · exact hstep
  · rw [hin] at hw
    cases hw
  · rw [hin] at hw
    cases hw

/-- No event writes the words still to come. -/
theorem stateAfter_input (cfg : Config) (i : Instr) (s : State) : ((apply cfg i s).stateAfter s).input = s.input := by
  cases h : apply cfg i s with
  | took t => exact apply_input cfg i s t h
  | hold | raised => rfl

theorem exec_of_hold {i : Instr} {s : State} (h : (apply Config.hardware i s).isHold = true) : exec i s = .next s := by
  rw [exec_eq_settle]
  rcases settle_cases s (apply Config.hardware i s) with ⟨-, hsettle⟩ | ⟨hnot, -⟩
  · exact hsettle
  · rw [h] at hnot
    cases hnot

theorem exec_of_not_hold {i : Instr} {s : State} (h : (apply Config.hardware i s).isHold = false) :
    exec i s = .next ((apply Config.hardware i s).stateAfter s).consume := by
  rw [exec_eq_settle]
  rcases settle_cases s (apply Config.hardware i s) with ⟨hhold, -⟩ | ⟨-, hsettle⟩
  · rw [hhold] at h
    cases h
  · exact hsettle

/-- Settles O1: the step is the event's, a hold leaves the state, and nothing else writes the input but the consumption. -/
theorem stepAppliesTheDecodedEvent : Obligations.StepAppliesTheDecodedEvent := by
  intro s w ws i hin hdecode
  have hstep := step_of_decode hin hdecode
  refine ⟨wellFormed_of_decode_eq_ok hdecode, hstep, fun h => hstep.trans (exec_of_hold h), fun h => ?_⟩
  refine ⟨_, hstep.trans (exec_of_not_hold h), ?_⟩
  rw [State.consume_input, stateAfter_input, hin, List.tail_cons]

/-- Settles O3. -/
theorem noEventChangesNothing : Obligations.NoEventChangesNothing :=
  fun _ hin => step_of_empty hin

theorem exists_exec_eq_next (i : Instr) (s : State) : ∃ t, exec i s = .next t := by
  cases h : (apply Config.hardware i s).isHold with
  | true => exact ⟨_, exec_of_hold h⟩
  | false => exact ⟨_, exec_of_not_hold h⟩

/-- Settles O4: every effect settles in a next state, and so does every case of a step. -/
theorem noStepStopsTheMachine : Obligations.NoStepStopsTheMachine := by
  refine ⟨exists_exec_eq_next, fun s => ?_⟩
  rcases step_cases s with ⟨-, hstep⟩ | ⟨w, ws, i, -, -, hstep⟩ | ⟨w, ws, e, -, -, hstep⟩
  · exact ⟨_, hstep⟩
  · rw [hstep]
    exact exists_exec_eq_next i s
  · exact ⟨_, hstep⟩

/-! A hold and what lifts it. -/

/-- Settles O5: LATCH_END waits for the 100 µs, which the TICK completes. -/
theorem holdIsLiftedByAnotherStep : Obligations.HoldIsLiftedByAnotherStep := by
  intro s ws dt hin hmode hphase hstart hearly hdt hlate
  have hheld : s.latchEndHeld Config.hardware = true := by
    rw [← Bool.not_eq_false, latchEndHeld_false_iff, Config.hardware_resetUs]
    omega
  have hreleased : (s.advanceClock dt).latchEndHeld Config.hardware = false :=
    (latchEndHeld_false_iff _ _).mpr
      ⟨hmode, hphase, by rw [State.advanceClock_clockUs, State.advanceClock_latchStartUs, Config.hardware_resetUs]; omega⟩
  have htick : step (s.deliverFirst (encode (.tick dt))) = .next (s.advanceClock dt) :=
    (step_of_encode (i := .tick dt) (decide_eq_true hdt) rfl).trans (exec_tick dt _)
  have hrelease : step (s.advanceClock dt) = .next (s.advanceClock dt).releaseLatch.consume :=
    (step_of_encode (s := s.advanceClock dt) (i := .latchEnd) rfl hin).trans (exec_latchEnd_of_not_held hreleased)
  refine ⟨(step_of_encode (i := .latchEnd) rfl hin).trans (exec_latchEnd_of_held hheld), _, htick, ?_⟩
  rw [hrelease, State.consume, State.releaseLatch_input, State.advanceClock_input, hin]
  rfl

/-! Runs of delivered words. -/

/-- `s` with the words of `ws` delivered and no others. -/
def State.withInput (ws : List Word) (s : State) : State := { s with input := ws }

/-- The effect with the words of `ws` still to come. -/
def Effect.withInput (ws : List Word) : Effect → Effect
  | .took t => .took (t.withInput ws)
  | .hold => .hold
  | .raised f => .raised f

/-- The index after a byte is taken from `enc_k` alone. -/
theorem afterByte_withInput (cfg : Config) (ws : List Word) (s : State) :
    (s.withInput ws).afterByte cfg = (s.afterByte cfg).withInput ws :=
  (apply_ite (State.withInput ws) (isLastByte cfg s.encK = true) s.startLatch s.nextByte).symm

/-- No event reads the words still to come: neither its condition nor what it writes. -/
theorem apply_withInput (cfg : Config) (i : Instr) (ws : List Word) (s : State) :
    apply cfg i (s.withInput ws) = (apply cfg i s).withInput ws := by
  cases i with
  | edgeA => exact (apply_ite (Effect.withInput ws) (s.acceptsA cfg = true) (.took (s.acceptedA cfg)) (.took s)).symm
  | edgeB => exact (apply_ite (Effect.withInput ws) (s.acceptsB cfg = true) (.took (s.acceptedB cfg)) (.took s)).symm
  | edgeC => exact (apply_ite (Effect.withInput ws) (s.mode = .run) (.took s.enterUpdate) (.took s)).symm
  | tick => rfl
  | render =>
    rcases applyRender_cases cfg s with ⟨hheld, heffect⟩ | ⟨hfree, hnothing, heffect⟩ | ⟨d, hdraws, heffect⟩ |
      ⟨hfree, hpending, hdigit, heffect⟩ <;> rw [apply, apply, heffect]
    · exact applyRender_of_held (s := s.withInput ws) hheld
    · exact applyRender_of_nothing_pending (s := s.withInput ws) hfree hnothing
    · exact applyRender_of_draws (s := s.withInput ws) hdraws
    · exact applyRender_of_no_digit (s := s.withInput ws) hfree hpending hdigit
  | encByte =>
    refine Eq.trans ?_ (apply_ite (Effect.withInput ws) (s.encByteHeld = true) .hold
      (.took ((s.sinkWrite (encByteAt s.buf s.encK)).afterByte cfg))).symm
    rw [Effect.withInput, Effect.withInput, ← afterByte_withInput]
    rfl
  | latchEnd =>
    exact (apply_ite (Effect.withInput ws) (s.latchEndHeld cfg = true) .hold (.took s.releaseLatch)).symm
  | reset ch =>
    exact (apply_ite (Effect.withInput ws) (ch = true) (.took (s.resetRegisters cfg))
      (.took ((s.resetRegisters cfg).enterFault .initNoChannel))).symm

theorem applyWord_withInput (cfg : Config) (w : Word) (ws : List Word) (s : State) :
    applyWord cfg w (s.withInput ws) = (applyWord cfg w s).withInput ws := by
  unfold applyWord
  split
  · exact apply_withInput cfg _ ws s
  · rfl

/-- A step settles the effect of the word at the head of the input. -/
theorem step_eq_settle_applyWord {s : State} {w : Word} {ws : List Word} (hin : s.input = w :: ws) :
    step s = settle s (applyWord Config.hardware w s) := by
  cases hdecode : decode w with
  | ok i => rw [step_of_decode hin hdecode, exec_eq_settle, applyWord, hdecode]
  | error e =>
    rw [step_of_illegal hin (by simp [hdecode]), applyWord, hdecode]
    rfl

/-- One word of a delivered list: a held one stays at the head, any other is consumed. -/
theorem step_withInput_cons (w : Word) (ws : List Word) (s : State) :
    step (s.withInput (w :: ws)) = .next
      (if (applyWord Config.hardware w s).isHold then s.withInput (w :: ws)
      else (afterWord Config.hardware w s).withInput ws) := by
  rw [step_eq_settle_applyWord (ws := ws) rfl, applyWord_withInput, afterWord]
  cases applyWord Config.hardware w s <;> rfl

theorem run_succ_of_step {s t : State} (hstep : step s = .next t) (n : Nat) :
    Host.Core.run core (n + 1) s = Host.Core.run core n t := by
  have hcore : core.step s = .next t := hstep
  simp only [Host.Core.run, hcore]

/-- A state that a step leaves unchanged stays for any number of steps. -/
theorem run_of_stuck {s : State} (hstuck : step s = .next s) (n : Nat) : Host.Core.run core n s = .next s := by
  induction n with
  | zero => rfl
  | succ n ih => exact (run_succ_of_step hstuck n).trans ih

/-- Settles O6, by induction on the delivered words: a held word leaves the rest of the steps without effect. -/
theorem stepsRunTheDeliveredWords : Obligations.StepsRunTheDeliveredWords := by
  intro ws
  induction ws with
  | nil => intro s; rfl
  | cons w ws ih =>
    intro s
    have hstep := step_withInput_cons w ws s
    cases hhold : (applyWord Config.hardware w s).isHold with
    | true =>
      rw [hhold, if_pos rfl] at hstep
      rw [runWords, hhold, if_pos rfl]
      exact run_of_stuck hstep _
    | false =>
      rw [hhold, if_neg (by decide)] at hstep
      rw [runWords, hhold, if_neg (by decide), ← ih]
      exact run_succ_of_step hstep ws.length

end Sys2Proof.Machine
end

section
/-! The invariants of 10_state.md rule R36: they hold after reset and every event, so every step, keeps them. -/

namespace Sys2Proof.Machine

/-! What the clauses need of the values. -/

theorem counter_le_iff (v : BitVec 4) : v ≤ 9#4 ↔ v.toNat ≤ 9 :=
  BitVec.le_def

/-- Every fault has a code of its own, and none is 0 (R116). -/
theorem FaultKind.code_ne_zero (f : FaultKind) : f.code ≠ 0#2 := by
  cases f <;> decide

/-- After fault entry `fault_code` is not 0: it keeps an earlier code or takes the fault's (R117). -/
theorem enterFault_faultCode_ne_zero (s : State) (f : FaultKind) : (s.enterFault f).faultCode ≠ 0#2 := by
  rw [State.enterFault_faultCode]
  split
  next => exact f.code_ne_zero
  next hcode => exact hcode

/-- The index after a byte that is not the last one is inside the frame. -/
theorem nextIndex_lt {cfg : Config} {k : BitVec 7} (hwf : cfg.wf = true) (hk : k.toNat < 3 * cfg.nCells)
    (hlast : isLastByte cfg k = false) : (nextIndex k).toNat < 3 * cfg.nCells := by
  obtain ⟨-, hfit⟩ := Config.frame_bounds_of_wf hwf
  have hne : k.toNat ≠ 3 * cfg.nCells - 1 := mt (isLastByte_iff cfg k).mpr (Bool.eq_false_iff.mp hlast)
  rw [nextIndex_toNat (by omega)]
  omega

/-! After reset. -/

theorem inv_resetRegisters (cfg : Config) (s : State) : Inv cfg s.frames (s.resetRegisters cfg) where
  counter_le := by simp
  lastA_le := Nat.zero_le _
  lastB_le := Nat.zero_le _
  encK_lt hsend := by simp at hsend
  latch_le := Nat.le_refl 0
  fault_iff := by simp
  boot_frames _ := rfl
  buf_length := bufClear_length cfg.nCells

/-- Settles O48: `State.reset` is what RESET leaves of it. -/
theorem resetMeetsTheInvariants : Obligations.ResetMeetsTheInvariants :=
  inv_resetRegisters Config.hardware State.reset

/-! Every event. -/

/-- Fault entry leaves a code other than 0, as clause (5) asks, and writes nothing else a clause speaks of. -/
theorem Inv.enterFault {cfg : Config} {since : Nat} {s : State} (hs : Inv cfg since s) (f : FaultKind) :
    Inv cfg since (s.enterFault f) :=
  { hs with fault_iff := by simpa using enterFault_faultCode_ne_zero s f }

/-- No clause speaks of the words still to come. -/
theorem Inv.consume {cfg : Config} {since : Nat} {s : State} (hs : Inv cfg since s) : Inv cfg since s.consume :=
  { hs with }

/-- Clause (1) over every event. -/
theorem EventChange.counter_le {cfg : Config} {s t : State} {i : Instr} (h : EventChange cfg s i t)
    (hs : s.counter ≤ 9#4) : t.counter ≤ 9#4 :=
  (counter_le_iff _).mpr (h.counter_toNat_le ((counter_le_iff _).mp hs))

/-- R36 over every event of a configuration the model is defined for. -/
theorem Inv.eventChange {cfg : Config} {since : Nat} {s t : State} {i : Instr} (hwf : cfg.wf = true)
    (hs : Inv cfg since s) (h : EventChange cfg s i t) : Inv cfg (sinceAfter i s since) t := by
  have hcounter := h.counter_le hs.counter_le
  cases h with
  | unchanged =>
    cases i with
    | reset => exact { hs with boot_frames := fun _ => rfl }
    | edgeA | edgeB | edgeC | tick | render | encByte | latchEnd => exact hs
  | acceptedA => exact { hs with counter_le := hcounter, lastA_le := Nat.le_refl s.nowMs }
  | acceptedB => exact { hs with counter_le := hcounter, lastB_le := Nat.le_refl s.nowMs }
  | update hrun =>
    have hgood : ¬ s.faultCode ≠ 0#2 := mt hs.fault_iff.mpr (by simp [hrun])
    exact { hs with fault_iff := iff_of_false (by simp) hgood }
  | time dt =>
    have hnow : s.nowMs ≤ (s.advanceClock dt).nowMs := Nat.div_le_div_right (Nat.le_add_right s.clockUs dt)
    exact { hs with
      lastA_le := hs.lastA_le.trans hnow
      lastB_le := hs.lastB_le.trans hnow
      latch_le := hs.latch_le.trans (Nat.le_add_right s.clockUs dt) }
  | idle => exact { hs with boot_frames := fun hboot => by simp at hboot }
  | draw =>
    obtain ⟨hcells, -⟩ := Config.frame_bounds_of_wf hwf
    exact { hs with
      encK_lt := fun _ => Nat.mul_pos (by decide) hcells
      boot_frames := fun hboot => by simp at hboot
      buf_length := frameBuffer_length cfg _ }
  | digitFault => exact hs.enterFault .digitRange
  | lastByte => exact { hs with encK_lt := fun hsend => by simp at hsend, latch_le := Nat.le_refl s.clockUs }
  | byte _ hlast => exact { hs with encK_lt := fun hsend => nextIndex_lt hwf (hs.encK_lt hsend) hlast }
  | release => exact { hs with encK_lt := fun hsend => by simp at hsend }
  | resetGood => exact inv_resetRegisters cfg s
  | resetFailed => exact (inv_resetRegisters cfg s).enterFault .initNoChannel

/-! Every step. -/

theorem sinceAfterStep_of_decode {s : State} {w : Word} {ws : List Word} {i : Instr} (hin : s.input = w :: ws)
    (hdecode : decode w = .ok i) (since : Nat) : sinceAfterStep s since = sinceAfter i s since := by
  simp [sinceAfterStep, State.fetch, hin, hdecode]

theorem sinceAfterStep_of_illegal {s : State} {w : Word} {ws : List Word} {e : DecodeError} (hin : s.input = w :: ws)
    (hdecode : decode w = .error e) (since : Nat) : sinceAfterStep s since = since := by
  simp [sinceAfterStep, State.fetch, hin, hdecode]

theorem sinceAfterStep_of_empty {s : State} (hin : s.input = []) (since : Nat) : sinceAfterStep s since = since := by
  simp [sinceAfterStep, State.fetch, hin]

/-- Settles O49: no word, an event, or the fault of an illegal word. -/
theorem everyStepKeepsTheInvariants : Obligations.EveryStepKeepsTheInvariants := by
  intro s t since hs hstep
  rcases step_cases s with ⟨hin, heq⟩ | ⟨w, ws, i, hin, hdecode, heq⟩ | ⟨w, ws, e, hin, hdecode, heq⟩ <;>
    rw [heq] at hstep
  · rw [sinceAfterStep_of_empty hin]
    cases hstep
    exact hs
  · rw [sinceAfterStep_of_decode hin hdecode]
    obtain ⟨u, vs, hchange, rfl⟩ := exec_change_up_to_input hstep
    exact { hs.eventChange Config.hardware_wf hchange with }
  · rw [sinceAfterStep_of_illegal hin hdecode]
    cases hstep
    exact (hs.enterFault .illegalEvent).consume

/-! Every run. -/

/-- A property that every word keeps holds after every run from a state that has it. -/
theorem deliverAll_invariant {cfg : Config} {ok : Word → Prop} {P : State → Prop} {ws : List Word} {s : State}
    (one : ∀ w s, ok w → P s → P (afterWord cfg w s)) (hok : ∀ w ∈ ws, ok w) (hs : P s) :
    P (deliverAll cfg ws s) :=
  deliverAll_keeps cfg ok (fun s t => P s → P t) (fun _ => id) (fun _ _ _ hst htu => htu ∘ hst) one ws s hok hs

theorem counter_toNat_le_afterWord {cfg : Config} (w : Word) {s : State} (hs : s.counter.toNat ≤ 9) :
    (afterWord cfg w s).counter.toNat ≤ 9 := by
  rcases wordChange cfg w s with ⟨i, -, hchange⟩ | ⟨e, -, hfault⟩
  · exact hchange.counter_toNat_le hs
  · rw [hfault]
    exact hs

/-- Settles O24. -/
theorem counterStaysADigit : Obligations.CounterStaysADigit :=
  fun _ _ _ hs =>
    deliverAll_invariant (ok := fun _ => True) (P := fun s => s.counter.toNat ≤ 9)
      (fun w _ _ h => counter_toNat_le_afterWord w h) (fun _ _ => trivial) hs

/-- The fault of a counter out of range has not been raised, and cannot be next: the counter is a digit. -/
structure NoDigitFault (s : State) : Prop where
  counter_le : s.counter.toNat ≤ 9
  code_ne : s.faultCode ≠ 2#2

theorem NoDigitFault.enterFault {s : State} (hs : NoDigitFault s) {f : FaultKind} (hf : f ≠ .digitRange) :
    NoDigitFault (s.enterFault f) where
  counter_le := hs.counter_le
  code_ne := by
    rw [State.enterFault_faultCode]
    split
    next =>
      cases f with
      | digitRange => exact absurd rfl hf
      | initNoChannel | illegalEvent => decide
    next => exact hs.code_ne

theorem noDigitFault_resetRegisters (cfg : Config) (s : State) : NoDigitFault (s.resetRegisters cfg) :=
  ⟨Nat.zero_le 9, by simp⟩

theorem NoDigitFault.eventChange {cfg : Config} {s t : State} {i : Instr} (hs : NoDigitFault s)
    (h : EventChange cfg s i t) : NoDigitFault t := by
  have hcounter := h.counter_toNat_le hs.counter_le
  cases h with
  | digitFault _ _ hdigit =>
    rw [digitOf_of_le s.counter (Nat.lt_succ_of_le hs.counter_le)] at hdigit
    cases hdigit
  | resetGood => exact noDigitFault_resetRegisters cfg s
  | resetFailed => exact (noDigitFault_resetRegisters cfg s).enterFault (by decide)
  | unchanged | acceptedA | acceptedB | update | time | idle | draw | lastByte | byte | release =>
    exact ⟨hcounter, hs.code_ne⟩

theorem NoDigitFault.afterWord {cfg : Config} {s : State} (hs : NoDigitFault s) (w : Word) :
    NoDigitFault (afterWord cfg w s) := by
  rcases wordChange cfg w s with ⟨i, -, hchange⟩ | ⟨e, -, hfault⟩
  · exact hs.eventChange hchange
  · rw [hfault]
    exact hs.enterFault (by decide)

/-- Settles O44: on a digit RENDER never raises the fault, and no other event does. -/
theorem digitFaultIsUnreachable : Obligations.DigitFaultIsUnreachable := by
  intro ws
  have hrun : NoDigitFault (deliverAll Config.hardware ws State.reset) :=
    deliverAll_invariant (ok := fun _ => True) (fun w _ _ h => h.afterWord w) (fun _ _ => trivial)
      (noDigitFault_resetRegisters Config.hardware State.reset)
  exact hrun.code_ne

end Sys2Proof.Machine
end

section
/-! Resets, modes and faults (43_system.md; 60_exceptions.md): what RESET leaves, what an event can do outside RUN, and what
leads from one mode to another. -/

namespace Sys2Proof.Machine

/-! RESET (R112, R113, R114). -/

theorem exec_reset_good (s : State) :
    exec (.reset true) s = .next (s.resetRegisters Config.hardware).consume :=
  exec_eq_settle (.reset true) s

theorem exec_reset_failed (s : State) :
    exec (.reset false) s = .next ((s.resetRegisters Config.hardware).enterFault .initNoChannel).consume :=
  exec_eq_settle (.reset false) s

/-- Settles O14, by the channel result: the register values of `resetRegisters`, and after it the fault entry. -/
theorem resetFollowsItsRule : Obligations.ResetFollowsItsRule := by
  intro s ch
  cases ch with
  | true => exact exec_reset_good s
  | false => exact exec_reset_failed s

/-- Settles O15: on this hardware `resetRegisters` writes the register values of `State.reset`, and a power cycle is a RESET
that also forgets the two observations. -/
theorem resetAndPowerGiveTheResetState : Obligations.ResetAndPowerGiveTheResetState :=
  fun s => ⟨exec_reset_good s, rfl, rfl⟩

/-! Events outside RUN (R118, R126). -/

/-- Outside RUN an event other than RESET changes nothing but, if it is a TICK, the clock. -/
theorem EventChange.of_not_run {cfg : Config} {s t : State} {i : Instr} (h : EventChange cfg s i t)
    (hmode : s.mode ≠ .run) (hreset : ∀ ch, i ≠ .reset ch) : t = s ∨ ∃ dt, t = s.advanceClock dt := by
  cases h with
  | unchanged => exact .inl rfl
  | time dt => exact .inr ⟨dt, rfl⟩
  | resetGood | resetFailed => exact absurd rfl (hreset _)
  | update hrun => exact absurd hrun hmode
  | acceptedA haccepts => exact absurd ((acceptsA_iff cfg s).mp haccepts).left hmode
  | acceptedB haccepts => exact absurd ((acceptsB_iff cfg s).mp haccepts).left hmode
  | idle hfree | digitFault hfree => exact absurd ((renderHeld_false_iff s).mp hfree).left hmode
  | draw d hdraws => exact absurd ((draws_iff s d).mp hdraws).left.left hmode
  | lastByte hfree | byte hfree => exact absurd ((encByteHeld_false_iff s).mp hfree).left hmode
  | release hfree => exact absurd ((latchEndHeld_false_iff cfg s).mp hfree).left hmode

theorem exec_edge_of_not_run {i : Instr} {s : State} (hmode : s.mode ≠ .run)
    (hedge : i = .edgeA ∨ i = .edgeB ∨ i = .edgeC) : exec i s = .next s.consume := by
  have hrejects (x : Tracked) : x.accepts Config.hardware s = false := by
    rw [← Bool.not_eq_true, x.accepts_iff]
    exact fun haccepts => hmode haccepts.left
  rcases hedge with rfl | rfl | rfl
  · exact exec_edge_of_rejects (x := .a) (hrejects .a)
  · exact exec_edge_of_rejects (x := .b) (hrejects .b)
  · exact exec_edgeC_of_not_run hmode

theorem latchEndHeld_of_not_run {cfg : Config} {s : State} (hmode : s.mode ≠ .run) : s.latchEndHeld cfg = true := by
  rw [← Bool.not_eq_false, latchEndHeld_false_iff]
  exact fun hfree => hmode hfree.left

theorem exec_held_of_not_run {i : Instr} {s : State} (hmode : s.mode ≠ .run)
    (hwaits : i = .render ∨ i = .encByte ∨ i = .latchEnd) : exec i s = .next s := by
  rcases hwaits with rfl | rfl | rfl
  · exact exec_render_of_held ((renderHeld_iff s).mpr (.inl hmode))
  · exact exec_encByte_of_held ((encByteHeld_iff s).mpr (.inl hmode))
  · exact exec_latchEnd_of_held (latchEndHeld_of_not_run hmode)

theorem step_of_error {s : State} {w : Word} {ws : List Word} {e : DecodeError} (hin : s.input = w :: ws)
    (hdecode : decode w = .error e) : step s = .next (s.enterFault .illegalEvent).consume :=
  step_of_illegal hin (by simp [hdecode])

/-- All a step can leave, up to the words still to come: no change without a word, a change of the event at the head of
the input, or the fault of an illegal word there. -/
theorem step_change {s t : State} (hstep : step s = .next t) :
    (s.input = [] ∧ t = s) ∨
    (∃ w i u ws, s.input.head? = some w ∧ decode w = .ok i ∧ EventChange Config.hardware s i u ∧
      t = { u with input := ws }) ∨
    (∃ w e, s.input.head? = some w ∧ decode w = .error e ∧ t = (s.enterFault .illegalEvent).consume) := by
  rcases step_cases s with ⟨hin, heq⟩ | ⟨w, ws, i, hin, hdecode, heq⟩ | ⟨w, ws, e, hin, hdecode, heq⟩ <;>
    rw [heq] at hstep
  · cases hstep
    exact .inl ⟨hin, rfl⟩
  · obtain ⟨u, vs, hchange, rfl⟩ := exec_change_up_to_input hstep
    exact .inr (.inl ⟨w, i, u, vs, by rw [hin]; rfl, hdecode, hchange, rfl⟩)
  · cases hstep
    exact .inr (.inr ⟨w, e, by rw [hin]; rfl, hdecode, rfl⟩)

theorem enterFault_of_faulted {s : State} (hmode : s.mode = .fault) (hcode : s.faultCode ≠ 0#2) (f : FaultKind) :
    s.enterFault f = s := by
  rw [State.enterFault, if_neg hcode, ← hmode]

/-- Settles O40: the clauses are the cases outside RUN, with fault entry idle where a code is kept already. -/
theorem faultModeFollowsItsRule : Obligations.FaultModeFollowsItsRule := by
  intro s hmode hcode
  have hnotRun : s.mode ≠ .run := by simp [hmode]
  refine ⟨fun dt => exec_tick dt s, fun i => exec_edge_of_not_run hnotRun, fun i => exec_held_of_not_run hnotRun,
    ?_, ?_, ⟨_, exec_reset_good s, rfl, rfl⟩, by simpa [State.goodEnd] using hcode⟩
  · intro w ws e hin hdecode
    rw [step_of_error hin hdecode, enterFault_of_faulted hmode hcode, State.consume, hin, List.tail_cons]
  · intro t hstep hnoReset
    rcases step_change hstep with ⟨-, rfl⟩ | ⟨w, i, u, ws, hhead, hdecode, hchange, rfl⟩ | ⟨w, e, -, -, rfl⟩
    · exact ⟨hmode, rfl⟩
    · have hreset : ∀ ch, i ≠ .reset ch := by
        rintro ch rfl
        exact (spellsReset_false_iff w).mp (hnoReset w hhead) ch hdecode
      rcases hchange.of_not_run hnotRun hreset with rfl | ⟨dt, rfl⟩
      · exact ⟨hmode, rfl⟩
      · exact ⟨hmode, rfl⟩
    · rw [enterFault_of_faulted hmode hcode]
      exact ⟨hmode, rfl⟩

/-- Only RESET 1 returns to RUN: without the channel RESET ends in FAULT. -/
theorem EventChange.reset_good_of_run {cfg : Config} {s t : State} {i : Instr} (h : EventChange cfg s i t)
    (hs : s.mode ≠ .run) (ht : t.mode = .run) : i = .reset true := by
  obtain ⟨ch, rfl⟩ := h.reset_of_run hs ht
  cases h with
  | resetGood => rfl
  | resetFailed => simp at ht
  | unchanged => exact absurd ht hs

/-- Settles O41. -/
theorem updateModeFollowsItsRule : Obligations.UpdateModeFollowsItsRule := by
  refine ⟨fun s hrun => ⟨_, exec_edgeC_of_run hrun, rfl, rfl⟩, fun s hmode => ?_⟩
  have hnotRun : s.mode ≠ .run := by simp [hmode]
  refine ⟨fun dt => exec_tick dt s, fun i => exec_edge_of_not_run hnotRun, fun i => exec_held_of_not_run hnotRun,
    fun w ws e hin hdecode => ⟨_, step_of_error hin hdecode, rfl⟩, ?_⟩
  intro t hstep hrun
  rcases step_change hstep with ⟨-, rfl⟩ | ⟨w, i, u, ws, hhead, hdecode, hchange, rfl⟩ | ⟨w, e, -, -, rfl⟩
  · exact absurd hrun hnotRun
  · obtain rfl := hchange.reset_good_of_run hnotRun hrun
    exact ⟨w, hhead, (spells_iff w _).mpr hdecode⟩
  · simp at hrun

/-- What a word that is no RESET leaves: a change of another event, or the fault of an illegal word. -/
theorem wordChange_of_noReset {cfg : Config} {w : Word} (hreset : spellsReset w = false) (s : State) :
    (∃ i, decode w = .ok i ∧ (∀ ch, i ≠ .reset ch) ∧ EventChange cfg s i (afterWord cfg w s)) ∨
    (∃ e, decode w = .error e ∧ afterWord cfg w s = s.enterFault .illegalEvent) := by
  rcases wordChange cfg w s with ⟨i, hdecode, hchange⟩ | hillegal
  · refine .inl ⟨i, hdecode, ?_, hchange⟩
    rintro ch rfl
    exact (spellsReset_false_iff w).mp hreset ch hdecode
  · exact .inr hillegal

/-! A failed start (R113). -/

/-- The block stopped by a fault with the code `code`, with `frames` frames started and the bytes `out` written. -/
structure StoppedWith (code : BitVec 2) (frames : Nat) (out : List Byte) (s : State) : Prop where
  mode : s.mode = .fault
  code_eq : s.faultCode = code
  frames_eq : s.frames = frames
  out_eq : s.out = out

theorem StoppedWith.afterWord {cfg : Config} {code : BitVec 2} {frames : Nat} {out : List Byte} {s : State} {w : Word}
    (hs : StoppedWith code frames out s) (hcode : code ≠ 0#2) (hreset : spellsReset w = false) :
    StoppedWith code frames out (afterWord cfg w s) := by
  rcases wordChange_of_noReset (cfg := cfg) hreset s with ⟨i, -, hnoReset, hchange⟩ | ⟨e, -, hfault⟩
  · rcases hchange.of_not_run (by simp [hs.mode]) hnoReset with heq | ⟨dt, heq⟩
    · rw [heq]
      exact hs
    · rw [heq]
      exact { hs with }
  · rw [hfault, enterFault_of_faulted hs.mode (hs.code_eq ▸ hcode)]
    exact hs

/-- Settles O42: the failed RESET stops the block with code 1, and no other word lets it go on. -/
theorem failedChannelStartsNoFrame : Obligations.FailedChannelStartsNoFrame := by
  intro s ws hreset
  refine ⟨_, exec_reset_failed s, rfl, ?_⟩
  have hrun := deliverAll_invariant (cfg := Config.hardware) (P := StoppedWith 1#2 s.frames s.out)
    (fun w u hw hu => hu.afterWord (w := w) (by decide) hw) hreset
    (s := ((s.resetRegisters Config.hardware).enterFault .initNoChannel).consume) ⟨rfl, rfl, rfl, rfl⟩
  exact ⟨hrun.mode, hrun.code_eq, hrun.frames_eq, hrun.out_eq⟩

/-! What leads to the modes and codes. -/

/-- Fault entry does not make the code that of another fault. -/
theorem enterFault_faultCode_ne {s : State} {f : FaultKind} {code : BitVec 2} (hs : s.faultCode ≠ code)
    (hf : f.code ≠ code) : (s.enterFault f).faultCode ≠ code := by
  rw [State.enterFault_faultCode]
  split
  next => exact hf
  next => exact hs

/-- Code 1 comes from a failed RESET only. -/
theorem EventChange.reset_failed_of_code {cfg : Config} {s t : State} {i : Instr} (h : EventChange cfg s i t)
    (hs : s.faultCode ≠ 1#2) (ht : t.faultCode = 1#2) : i = .reset false := by
  cases h with
  | resetFailed => rfl
  | resetGood => exact absurd ht (by simp)
  | digitFault => exact absurd ht (enterFault_faultCode_ne hs (by decide))
  | unchanged | acceptedA | acceptedB | update | time | idle | draw | lastByte | byte | release => exact absurd ht hs

/-- Settles O43: the one word of the failed RESET is 0x80000000. -/
theorem initFaultOnlyByFailedReset : Obligations.InitFaultOnlyByFailedReset := by
  intro s t hstep
  constructor
  · intro hs ht
    rcases step_change hstep with ⟨-, rfl⟩ | ⟨w, i, u, ws, hhead, hdecode, hchange, rfl⟩ | ⟨w, e, -, -, rfl⟩
    · exact absurd ht hs
    · obtain rfl := hchange.reset_failed_of_code hs ht
      rw [hhead, ← encode_eq_of_decode_eq_ok hdecode]
      rfl
    · exact absurd ht (enterFault_faultCode_ne hs (by decide))
  · intro hhead
    have hin : s.input = encode (.reset false) :: s.input.tail := List.eq_cons_of_mem_head? hhead
    cases ((step_of_encode rfl hin).trans (exec_reset_failed s)).symm.trans hstep
    exact ⟨rfl, rfl⟩

/-- What leaves RUN, event by event. -/
theorem EventChange.leaves_run {cfg : Config} {s t : State} {i : Instr} (h : EventChange cfg s i t)
    (hs : s.mode = .run) (ht : t.mode ≠ .run) :
    (i = .edgeC ∧ t.mode = .update) ∨ (i = .reset false ∧ t.mode = .fault) ∨
      (i = .render ∧ 9 < s.counter.toNat ∧ t.mode = .fault) := by
  cases h with
  | update => exact .inl ⟨rfl, rfl⟩
  | resetFailed => exact .inr (.inl ⟨rfl, rfl⟩)
  | digitFault _ _ hdigit =>
    have hrange : ¬ s.counter.toNat < 10 := fun hlt => by
      rw [digitOf_of_le s.counter hlt] at hdigit
      cases hdigit
    exact .inr (.inr ⟨rfl, Nat.not_lt.mp hrange, rfl⟩)
  | resetGood => exact absurd rfl ht
  | unchanged | acceptedA | acceptedB | time | idle | draw | lastByte | byte | release => exact absurd hs ht

/-- Settles O45: each such event's word is its encoding. -/
theorem onlyTheseEventsLeaveRun : Obligations.OnlyTheseEventsLeaveRun := by
  intro s t hs hstep ht
  rcases step_change hstep with ⟨-, rfl⟩ | ⟨w, i, u, ws, hhead, hdecode, hchange, rfl⟩ | ⟨w, e, hhead, hdecode, rfl⟩
  · exact absurd hs ht
  · refine ⟨w, hhead, ?_⟩
    rw [← encode_eq_of_decode_eq_ok hdecode]
    rcases hchange.leaves_run hs ht with ⟨rfl, hmode⟩ | ⟨rfl, hmode⟩ | ⟨rfl, hrange, hmode⟩
    · exact .inl ⟨hmode, rfl⟩
    · exact .inr ⟨hmode, .inl rfl⟩
    · exact .inr ⟨hmode, .inr (.inr ⟨rfl, hrange⟩)⟩
  · exact ⟨w, hhead, .inr ⟨rfl, .inr (.inl ⟨e, hdecode⟩)⟩⟩

end Sys2Proof.Machine
end

section
/-! Who writes what: the sink (20_memory.md rule R52), the clock (10_state.md rule R22) and the registers of each agent
(rule R37). -/

namespace Sys2Proof.Machine

/-! The sink. -/

/-- Only ENC_BYTE in RUN and SEND writes the sink, one byte. -/
theorem EventChange.out_cases {cfg : Config} {s t : State} {i : Instr} (h : EventChange cfg s i t) :
    t.out = s.out ∨ (i = .encByte ∧ s.encByteHeld = false ∧ t.out = s.out ++ [encByteAt s.buf s.encK]) := by
  cases h with
  | lastByte hfree | byte hfree => exact .inr ⟨rfl, hfree, rfl⟩
  | unchanged | acceptedA | acceptedB | update | time | idle | draw | digitFault | release | resetGood | resetFailed =>
    exact .inl rfl

/-- Settles O37: ENC_BYTE's one word is 0x60000000. -/
theorem onlyEncByteWritesTheSink : Obligations.OnlyEncByteWritesTheSink := by
  intro s t hstep
  rcases step_change hstep with ⟨-, rfl⟩ | ⟨w, i, u, ws, hhead, hdecode, hchange, rfl⟩ | ⟨w, e, -, -, rfl⟩
  · exact .inl rfl
  · rcases hchange.out_cases with hsame | ⟨rfl, hfree, hout⟩
    · exact .inl hsame
    · obtain ⟨hmode, hphase⟩ := (encByteHeld_false_iff s).mp hfree
      have hw : encode .encByte = w := encode_eq_of_decode_eq_ok hdecode
      exact .inr ⟨hhead.trans (congrArg some hw.symm), hmode, hphase, _, hout⟩
  · exact .inl rfl

/-! The clock. -/

theorem EventChange.clockUs_cases {cfg : Config} {s t : State} {i : Instr} (h : EventChange cfg s i t) :
    t.clockUs = s.clockUs ∨ (∃ dt, i = .tick dt ∧ t.clockUs = s.clockUs + dt) ∨ ∃ ch, i = .reset ch := by
  cases h with
  | time dt => exact .inr (.inl ⟨dt, rfl, rfl⟩)
  | resetGood | resetFailed => exact .inr (.inr ⟨_, rfl⟩)
  | unchanged | acceptedA | acceptedB | update | idle | draw | digitFault | lastByte | byte | release => exact .inl rfl

theorem EventChange.clockUs_le {cfg : Config} {s t : State} {i : Instr} (h : EventChange cfg s i t)
    (hreset : ∀ ch, i ≠ .reset ch) : s.clockUs ≤ t.clockUs := by
  rcases h.clockUs_cases with heq | ⟨dt, -, heq⟩ | ⟨ch, rfl⟩
  · exact heq.ge
  · exact heq ▸ Nat.le_add_right s.clockUs dt
  · exact absurd rfl (hreset ch)

theorem clockUs_le_afterWord {cfg : Config} {w : Word} (hreset : spellsReset w = false) (s : State) :
    s.clockUs ≤ (afterWord cfg w s).clockUs := by
  rcases wordChange_of_noReset (cfg := cfg) hreset s with ⟨i, -, hnoReset, hchange⟩ | ⟨e, -, hfault⟩
  · exact hchange.clockUs_le hnoReset
  · exact (congrArg State.clockUs hfault).ge

theorem clockUs_le_deliverAll {cfg : Config} {ws : List Word} (hreset : NoReset ws) (s : State) :
    s.clockUs ≤ (deliverAll cfg ws s).clockUs :=
  deliverAll_keeps cfg (fun w => spellsReset w = false) (fun s t => s.clockUs ≤ t.clockUs) (fun _ => le_rfl)
    (fun _ _ _ => le_trans) (fun _ s hw => clockUs_le_afterWord hw s) ws s hreset

/-- Settles O47. -/
theorem timeMovesByTickOnly : Obligations.TimeMovesByTickOnly := by
  refine ⟨fun i s t hexec => ?_, fun ws s hreset => clockUs_le_deliverAll hreset s⟩
  obtain ⟨u, ws, hchange, rfl⟩ := exec_change_up_to_input hexec
  exact hchange.clockUs_cases

/-! The write lists of the agents. -/

/-- An event of the edge agent, accepted or not. -/
theorem EventChange.writesWithin_of_edge {cfg : Config} {s t : State} {i : Instr} (h : EventChange cfg s i t)
    (hagent : agentOf i = .edge) : writesWithin i s t := by
  rw [writesWithin, hagent]
  cases h with
  | unchanged => exact ⟨rfl, id⟩
  | acceptedA | acceptedB => exact ⟨rfl, fun hset => by simp [State.acceptedA, State.acceptedB, hset]⟩
  | update => exact ⟨rfl, id⟩
  | time | idle | draw | digitFault | lastByte | byte | release | resetGood | resetFailed => cases hagent

/-- A RENDER that is taken clears both bits; a frame writes the buffer, the encoder and the count too. -/
theorem writesWithin_of_render {cfg : Config} {s t : State} (h : apply cfg .render s = .took t) :
    writesWithin .render s t := by
  rcases applyRender_cases cfg s with ⟨-, heffect⟩ | ⟨-, -, heffect⟩ | ⟨d, -, heffect⟩ | ⟨-, -, -, heffect⟩ <;>
    cases heffect.symm.trans h <;> rfl

theorem EventChange.writesWithin_of_encoder {cfg : Config} {s t : State} {i : Instr} (h : EventChange cfg s i t)
    (hagent : agentOf i = .encoder) : writesWithin i s t := by
  rw [writesWithin, hagent]
  cases h with
  | unchanged | lastByte | byte | release => rfl
  | acceptedA | acceptedB | update | time | idle | draw | digitFault | resetGood | resetFailed => cases hagent

/-- Settles O46, agent by agent. -/
theorem agentsWriteOnlyTheirRegisters : Obligations.AgentsWriteOnlyTheirRegisters := by
  intro cfg i s t h
  have hchange : EventChange cfg s i t := by
    have := eventChange cfg i s
    rwa [h, stateAfter_took] at this
  cases i with
  | edgeA | edgeB | edgeC => exact hchange.writesWithin_of_edge rfl
  | render => exact writesWithin_of_render h
  | encByte | latchEnd => exact hchange.writesWithin_of_encoder rfl
  | tick dt =>
    cases h
    exact .inl ⟨dt, rfl, rfl⟩
  | reset ch =>
    rcases applyReset_cases cfg ch s with ⟨-, heffect⟩ | ⟨-, heffect⟩ <;> cases heffect.symm.trans h <;>
      exact .inr ⟨ch, rfl, rfl, rfl, rfl⟩

end Sys2Proof.Machine
end

section
/-! Debounce over time (40_debounce_counter.md sections 1 and 3; 60_exceptions.md section 2): the boundary in microseconds,
what an edge does not depend on, how far accepted edges are apart, and the order of simultaneous edges. -/

namespace Sys2Proof.Machine

/-! The boundary (R79). -/

/-- Rounding down to milliseconds does not move the boundary: `last_X + 500` is a whole number of them. -/
theorem interval_iff_microseconds (clock last : Nat) :
    clock / 1000 - last ≥ 500 ↔ clock ≥ 1000 * (last + 500) := by
  omega

/-- In RUN an edge moves its timestamp exactly from the boundary on. -/
theorem exec_edge_lastMs (x : Tracked) {s : State} (hmode : s.mode = .run) : ∃ t, exec x.edge s = .next t ∧
    x.lastMs t = if s.clockUs ≥ 1000 * (x.lastMs s + 500) then s.clockUs / 1000 else x.lastMs s := by
  refine ⟨_, exec_edge x s, ?_⟩
  by_cases hpassed : s.clockUs / 1000 - x.lastMs s ≥ 500
  · rw [if_pos ⟨hmode, hpassed⟩, if_pos ((interval_iff_microseconds _ _).mp hpassed)]
    cases x <;> rfl
  · rw [if_neg (fun h => hpassed h.right), if_neg (mt (interval_iff_microseconds _ _).mpr hpassed)]
    cases x <;> rfl

/-- Settles O19. -/
theorem debounceBoundaryInMicroseconds : Obligations.DebounceBoundaryInMicroseconds :=
  fun _ hmode => ⟨fun _ => exec_edge_lastMs .a hmode, fun _ => exec_edge_lastMs .b hmode⟩

/-! Edges against the render loop and the encoder (R90). -/

/-- `s` with other values in the registers of the render loop and the encoder. -/
def State.withRenderAndEncoder (bp : Bool) (buf : List Colour) (ph : EncPhase) (k : BitVec 7) (ls fr : Nat)
    (o : List Byte) (s : State) : State :=
  { s with bootPending := bp, buf := buf, encPhase := ph, encK := k, latchStartUs := ls, frames := fr, out := o }

section
variable {bp : Bool} {buf : List Colour} {ph : EncPhase} {k : BitVec 7} {ls fr : Nat} {o : List Byte}

theorem exec_edge_ignores_render_and_encoder {x : Tracked} {s t : State} (h : exec x.edge s = .next t) :
    exec x.edge (s.withRenderAndEncoder bp buf ph k ls fr o) = .next (t.withRenderAndEncoder bp buf ph k ls fr o) := by
  have hsame : x.accepts Config.hardware (s.withRenderAndEncoder bp buf ph k ls fr o) =
      x.accepts Config.hardware s := by cases x <;> rfl
  cases haccepts : x.accepts Config.hardware s with
  | true =>
    cases (exec_edge_of_accepts haccepts).symm.trans h
    rw [exec_edge_of_accepts (hsame.trans haccepts)]
    cases x <;> rfl
  | false =>
    cases (exec_edge_of_rejects haccepts).symm.trans h
    exact exec_edge_of_rejects (hsame.trans haccepts)

theorem exec_edgeC_ignores_render_and_encoder {s t : State} (h : exec .edgeC s = .next t) :
    exec .edgeC (s.withRenderAndEncoder bp buf ph k ls fr o) = .next (t.withRenderAndEncoder bp buf ph k ls fr o) := by
  by_cases hmode : s.mode = .run
  · cases (exec_edgeC_of_run hmode).symm.trans h
    exact exec_edgeC_of_run (s := s.withRenderAndEncoder bp buf ph k ls fr o) hmode
  · cases (exec_edgeC_of_not_run hmode).symm.trans h
    exact exec_edgeC_of_not_run (s := s.withRenderAndEncoder bp buf ph k ls fr o) hmode

end

theorem edge_not_held (cfg : Config) {i : Instr} (hagent : agentOf i = .edge) (s : State) :
    (apply cfg i s).isHold = false := by
  cases i with
  | edgeA => rcases applyEdgeA_cases cfg s with ⟨-, h⟩ | ⟨-, h⟩ <;> rw [apply, h, isHold_took]
  | edgeB => rcases applyEdgeB_cases cfg s with ⟨-, h⟩ | ⟨-, h⟩ <;> rw [apply, h, isHold_took]
  | edgeC => rcases applyEdgeC_cases s with ⟨-, h⟩ | ⟨-, h⟩ <;> rw [apply, h, isHold_took]
  | tick | render | encByte | latchEnd | reset => cases hagent

/-- Settles O21. -/
theorem edgesIgnoreRenderAndEncoder : Obligations.EdgesIgnoreRenderAndEncoder := by
  intro i s hagent
  refine ⟨edge_not_held Config.hardware hagent s, fun t bp buf ph k ls fr o hexec => ?_⟩
  cases i with
  | edgeA => exact exec_edge_ignores_render_and_encoder (x := .a) hexec
  | edgeB => exact exec_edge_ignores_render_and_encoder (x := .b) hexec
  | edgeC => exact exec_edgeC_ignores_render_and_encoder hexec
  | tick | render | encByte | latchEnd | reset => cases hagent

/-! An edge delivered as a word. -/

theorem afterWord_of_decode (cfg : Config) {w : Word} {i : Instr} (hdecode : decode w = .ok i) (s : State) :
    afterWord cfg w s = (apply cfg i s).stateAfter s := by
  rw [afterWord, applyWord, hdecode]

theorem afterWord_encode (cfg : Config) {i : Instr} (hwf : i.WellFormed) (s : State) :
    afterWord cfg (encode i) s = (apply cfg i s).stateAfter s :=
  afterWord_of_decode cfg (decode_encode hwf) s

theorem Tracked.edge_wellFormed (x : Tracked) : x.edge.WellFormed := by
  cases x <;> rfl

theorem afterWord_edge_of_accepts {x : Tracked} {cfg : Config} {s : State} (h : x.accepts cfg s = true) :
    afterWord cfg (encode x.edge) s = x.accepted cfg s := by
  rw [afterWord_encode cfg x.edge_wellFormed, apply_edge_of_accepts h, stateAfter_took]

theorem afterWord_edge_of_rejects {x : Tracked} {cfg : Config} {s : State} (h : x.accepts cfg s = false) :
    afterWord cfg (encode x.edge) s = s := by
  rw [afterWord_encode cfg x.edge_wellFormed, apply_edge_of_rejects h, stateAfter_took]

theorem afterWord_edgeC_of_run {cfg : Config} {s : State} (h : s.mode = .run) :
    afterWord cfg (encode .edgeC) s = s.enterUpdate := by
  have heffect : apply cfg .edgeC s = .took s.enterUpdate := if_pos h
  rw [afterWord_encode cfg (i := .edgeC) rfl, heffect, stateAfter_took]

@[simp] theorem Tracked.accepted_lastMs (x : Tracked) (cfg : Config) (s : State) :
    x.lastMs (x.accepted cfg s) = s.nowMs := by
  cases x <;> rfl

@[simp] theorem Tracked.accepted_counter (x : Tracked) (cfg : Config) (s : State) :
    (x.accepted cfg s).counter = x.nextCount s.counter := by
  cases x <;> rfl

@[simp] theorem Tracked.accepted_mode (x : Tracked) (cfg : Config) (s : State) :
    (x.accepted cfg s).mode = s.mode := by
  cases x <;> rfl

/-! The timestamp over a run (R91). -/

/-- Without a RESET, a timestamp is written by an accepted edge of its button only. -/
theorem EventChange.lastMs_cases {cfg : Config} {s t : State} {i : Instr} (h : EventChange cfg s i t)
    (hreset : ∀ ch, i ≠ .reset ch) (x : Tracked) :
    x.lastMs t = x.lastMs s ∨ (i = x.edge ∧ x.accepts cfg s = true) := by
  cases h with
  | acceptedA haccepts =>
    cases x with
    | a => exact .inr ⟨rfl, haccepts⟩
    | b => exact .inl rfl
  | acceptedB haccepts =>
    cases x with
    | a => exact .inl rfl
    | b => exact .inr ⟨rfl, haccepts⟩
  | resetGood | resetFailed => exact absurd rfl (hreset _)
  | unchanged | update | time | idle | draw | digitFault | lastByte | byte | release => exact .inl (by cases x <;> rfl)

theorem lastMs_afterWord_of_accepted {x : Tracked} {cfg : Config} {w : Word} {s : State}
    (h : (spells w x.edge && x.accepts cfg s) = true) : x.lastMs (afterWord cfg w s) = s.nowMs := by
  obtain ⟨hspells, haccepts⟩ := Bool.and_eq_true_iff.mp h
  rw [afterWord_of_decode cfg ((spells_iff w x.edge).mp hspells), apply_edge_of_accepts haccepts, stateAfter_took,
    Tracked.accepted_lastMs]

theorem lastMs_afterWord_of_not_accepted {x : Tracked} {cfg : Config} {w : Word} {s : State}
    (hreset : spellsReset w = false) (h : (spells w x.edge && x.accepts cfg s) = false) :
    x.lastMs (afterWord cfg w s) = x.lastMs s := by
  rcases wordChange_of_noReset (cfg := cfg) hreset s with ⟨i, hdecode, hnoReset, hchange⟩ | ⟨e, -, hfault⟩
  · rcases hchange.lastMs_cases hnoReset x with hsame | ⟨rfl, haccepts⟩
    · exact hsame
    · rw [(spells_iff w x.edge).mpr hdecode, haccepts] at h
      cases h
  · rw [hfault]
    cases x <;> rfl

theorem lastMs_add_500_le_nowMs_of_accepts {x : Tracked} {s : State} (h : x.accepts Config.hardware s = true) :
    x.lastMs s + 500 ≤ s.nowMs := by
  obtain ⟨-, hinterval⟩ := (x.accepts_iff _ s).mp h
  rw [Config.hardware_debounceMs] at hinterval
  omega

theorem lastMs_le_afterWord {x : Tracked} {w : Word} (hreset : spellsReset w = false) (s : State) :
    x.lastMs s ≤ x.lastMs (afterWord Config.hardware w s) := by
  cases h : spells w x.edge && x.accepts Config.hardware s with
  | true =>
    have haccepts := (Bool.and_eq_true_iff.mp h).right
    rw [lastMs_afterWord_of_accepted h]
    exact (Nat.le_add_right _ 500).trans (lastMs_add_500_le_nowMs_of_accepts haccepts)
  | false => rw [lastMs_afterWord_of_not_accepted hreset h]

theorem mem_acceptedTimes_cons {x : Tracked} {cfg : Config} {w : Word} {ws : List Word} {s : State} {t : Nat} :
    t ∈ acceptedTimes cfg x (w :: ws) s ↔
      ((spells w x.edge && x.accepts cfg s) = true ∧ t = s.nowMs) ∨ t ∈ acceptedTimes cfg x ws (afterWord cfg w s) := by
  rw [acceptedTimes, List.mem_append]
  split <;> simp_all

/-- Between resets every accepted edge is 500 ms after the timestamp the run starts with. -/
theorem lastMs_add_500_le_of_mem_acceptedTimes {x : Tracked} {ws : List Word} (hreset : NoReset ws) {s : State} {t : Nat}
    (ht : t ∈ acceptedTimes Config.hardware x ws s) : x.lastMs s + 500 ≤ t := by
  induction ws generalizing s with
  | nil => cases ht
  | cons w ws ih =>
    obtain ⟨hw, hws⟩ := List.forall_mem_cons.mp hreset
    rcases mem_acceptedTimes_cons.mp ht with ⟨haccepted, rfl⟩ | htail
    · exact lastMs_add_500_le_nowMs_of_accepts (Bool.and_eq_true_iff.mp haccepted).right
    · exact (Nat.add_le_add_right (lastMs_le_afterWord hw s) 500).trans (ih hws htail)

theorem acceptedTimes_pairwise (x : Tracked) {ws : List Word} (hreset : NoReset ws) (s : State) :
    (acceptedTimes Config.hardware x ws s).Pairwise (fun t1 t2 => t1 + 500 ≤ t2) := by
  induction ws generalizing s with
  | nil => exact .nil
  | cons w ws ih =>
    obtain ⟨hw, hws⟩ := List.forall_mem_cons.mp hreset
    rw [acceptedTimes]
    split
    next haccepted =>
      refine List.pairwise_cons.mpr ⟨fun t ht => ?_, ih hws _⟩
      rw [← lastMs_afterWord_of_accepted haccepted]
      exact lastMs_add_500_le_of_mem_acceptedTimes hws ht
    next => exact ih hws _

/-- Times that are `gap` apart have at most one in a window of that length. -/
theorem length_window_le_one {gap : Nat} {times : List Nat} (h : times.Pairwise (fun t1 t2 => t1 + gap ≤ t2)) (t : Nat) :
    (times.filter (fun u => decide (t ≤ u ∧ u < t + gap))).length ≤ 1 := by
  have hapart := h.sublist (List.filter_sublist (p := fun u => decide (t ≤ u ∧ u < t + gap)))
  have hwindow : ∀ u ∈ times.filter (fun u => decide (t ≤ u ∧ u < t + gap)), t ≤ u ∧ u < t + gap :=
    fun u hu => of_decide_eq_true (List.mem_filter.mp hu).right
  generalize times.filter (fun u => decide (t ≤ u ∧ u < t + gap)) = window at hapart hwindow
  match window with
  | [] => exact Nat.zero_le 1
  | [_] => exact Nat.le_refl 1
  | u :: v :: _ =>
    have huv : u + gap ≤ v := (List.pairwise_cons.mp hapart).left v (by simp)
    have hu := hwindow u (by simp)
    have hv := hwindow v (by simp)
    omega

/-- Settles O22. -/
theorem acceptedEdgesAreSpaced : Obligations.AcceptedEdgesAreSpaced :=
  fun x _ s hreset =>
    ⟨acceptedTimes_pairwise x hreset s, length_window_le_one (acceptedTimes_pairwise x hreset s)⟩

/-! The first edge after reset (R80, R91). -/

theorem mem_edgeTimes_of_mem_acceptedTimes {x : Tracked} {cfg : Config} {ws : List Word} {s : State} {t : Nat}
    (ht : t ∈ acceptedTimes cfg x ws s) : t ∈ edgeTimes cfg x ws s := by
  induction ws generalizing s with
  | nil => exact ht
  | cons w ws ih =>
    rw [edgeTimes, List.mem_append]
    rcases mem_acceptedTimes_cons.mp ht with ⟨haccepted, rfl⟩ | htail
    · rw [if_pos (Bool.and_eq_true_iff.mp haccepted).left]
      exact .inl (List.mem_singleton_self _)
    · exact .inr (ih htail)

/-- As long as no edge of the button is accepted, its timestamp stays. -/
theorem lastMs_deliverAll_of_none_accepted {x : Tracked} {cfg : Config} {ws : List Word} (hreset : NoReset ws) {s : State}
    (hnone : ∀ t, t ∉ acceptedTimes cfg x ws s) : x.lastMs (deliverAll cfg ws s) = x.lastMs s := by
  induction ws generalizing s with
  | nil => rfl
  | cons w ws ih =>
    obtain ⟨hw, hws⟩ := List.forall_mem_cons.mp hreset
    have hfirst : (spells w x.edge && x.accepts cfg s) = false := by
      rw [← Bool.not_eq_true]
      exact fun haccepted => hnone s.nowMs (mem_acceptedTimes_cons.mpr (.inl ⟨haccepted, rfl⟩))
    rw [deliverAll_cons, ih hws (fun t ht => hnone t (mem_acceptedTimes_cons.mpr (.inr ht))),
      lastMs_afterWord_of_not_accepted hw hfirst]

@[simp] theorem Tracked.lastMs_resetRegisters (x : Tracked) (cfg : Config) (s : State) :
    x.lastMs (s.resetRegisters cfg) = 0 := by
  cases x <;> rfl

/-- Settles O23: after a reset the timestamp is 0, and it stays so while every edge comes before 500 ms. -/
theorem firstEdgeAfterReset : Obligations.FirstEdgeAfterReset := by
  intro x ws s hreset
  have hlate : ∀ t ∈ acceptedTimes Config.hardware x ws (s.resetRegisters Config.hardware), 500 ≤ t := by
    intro t ht
    have hspaced := lastMs_add_500_le_of_mem_acceptedTimes hreset ht
    rwa [Tracked.lastMs_resetRegisters, Nat.zero_add] at hspaced
  refine ⟨hlate, fun hearly hmode hnow => ?_⟩
  have hnone : ∀ t, t ∉ acceptedTimes Config.hardware x ws (s.resetRegisters Config.hardware) := fun t ht =>
    absurd (hearly t (mem_edgeTimes_of_mem_acceptedTimes ht)) (Nat.not_lt.mpr (hlate t ht))
  rw [x.accepts_iff, lastMs_deliverAll_of_none_accepted hreset hnone, Tracked.lastMs_resetRegisters]
  exact ⟨hmode, hnow⟩

/-! Simultaneous edges (R125). -/

@[simp] theorem Tracked.other_accepts_accepted (x : Tracked) (cfg : Config) (s : State) :
    x.other.accepts cfg (x.accepted cfg s) = x.other.accepts cfg s := by
  cases x <;> rfl

/-- Edges of both buttons at one time are both accepted, one after the other, where both intervals have passed. -/
theorem counter_after_both_edges {x : Tracked} {cfg : Config} {s : State} (hx : x.accepts cfg s = true)
    (hother : x.other.accepts cfg s = true) :
    (deliverAll cfg [encode x.edge, encode x.other.edge] s).counter =
      x.other.nextCount (x.nextCount s.counter) := by
  have hsecond : x.other.accepts cfg (x.accepted cfg s) = true := by simpa using hother
  rw [deliverAll_cons, afterWord_edge_of_accepts hx, deliverAll_cons, afterWord_edge_of_accepts hsecond, deliverAll_nil,
    Tracked.accepted_counter, Tracked.accepted_counter]

/-- After EDGE_C an edge of A or B has no effect. -/
theorem counter_after_edgeC_then_edge {x : Tracked} {cfg : Config} {s : State} (hmode : s.mode = .run) :
    (deliverAll cfg [encode .edgeC, encode x.edge] s).counter = s.counter := by
  have hrejects : x.accepts cfg s.enterUpdate = false := by
    rw [← Bool.not_eq_true, x.accepts_iff]
    rintro ⟨hrun, -⟩
    cases hrun
  rw [deliverAll_cons, afterWord_edgeC_of_run hmode, deliverAll_cons, afterWord_edge_of_rejects hrejects, deliverAll_nil,
    State.enterUpdate_counter]

/-- An accepted edge of A or B keeps its effect when EDGE_C follows. -/
theorem after_edge_then_edgeC {x : Tracked} {cfg : Config} {s : State} (hx : x.accepts cfg s = true) :
    deliverAll cfg [encode x.edge, encode .edgeC] s = (x.accepted cfg s).enterUpdate := by
  obtain ⟨hmode, -⟩ := (x.accepts_iff cfg s).mp hx
  rw [deliverAll_cons, afterWord_edge_of_accepts hx, deliverAll_cons,
    afterWord_edgeC_of_run ((x.accepted_mode cfg s).trans hmode), deliverAll_nil]

/-- Settles O25: the saturating functions at 9 do not commute, and EDGE_C shuts out the edges after it only. -/
theorem orderOfSimultaneousEdgesMatters : Obligations.OrderOfSimultaneousEdgesMatters := by
  intro s hmode
  have haccepts (x : Tracked) (htime : x.lastMs s + 500 ≤ s.nowMs) : x.accepts Config.hardware s = true :=
    (x.accepts_iff _ s).mpr ⟨hmode, by rw [Config.hardware_debounceMs]; omega⟩
  refine ⟨fun hcounter ha hb => ⟨?_, ?_⟩, counter_after_edgeC_then_edge (x := .a) hmode, fun hcounter ha => ?_⟩
  · refine (counter_after_both_edges (x := .a) (haccepts .a ha) (haccepts .b hb)).trans ?_
    rw [hcounter]
    rfl
  · refine (counter_after_both_edges (x := .b) (haccepts .b hb) (haccepts .a ha)).trans ?_
    rw [hcounter]
    rfl
  · have hrun := after_edge_then_edgeC (haccepts .a ha)
    have hincremented : satInc s.counter = s.counter + 1#4 := by
      rw [satInc_of_le s.counter (BitVec.le_of_lt hcounter), if_pos hcounter]
    exact ⟨(congrArg State.counter hrun).trans hincremented, congrArg State.mode hrun⟩

/-! The alternative FIRST_EDGE_FREE (R12, R80). -/

theorem acceptsFree_of_not_free {cfg : Config} (hfree : cfg.firstEdgeFree = false) (seen : Bool) (now last : Nat) :
    acceptsFree cfg seen now last = intervalPassed cfg now last := by
  simp [acceptsFree, hfree]

theorem acceptsFree_of_first {cfg : Config} (hfree : cfg.firstEdgeFree = true) (now last : Nat) :
    acceptsFree cfg false now last = true := by
  simp [acceptsFree, hfree]

/-- The button's bit `seen_X` (R80). -/
def Tracked.seen (seen : SeenBits) : Tracked → Bool
  | .a => seen.a
  | .b => seen.b

/-- Setting the button's bit. -/
def Tracked.markSeen (seen : SeenBits) : Tracked → SeenBits
  | .a => { seen with a := true }
  | .b => { seen with b := true }

/-- The test of R80 for an edge of either button. -/
theorem afterEventFree_edge (x : Tracked) (cfg : Config) (s : State) (seen : SeenBits) :
    afterEventFree cfg x.edge s seen =
      if decide (s.mode = .run) && acceptsFree cfg (x.seen seen) s.nowMs (x.lastMs s) then
        (x.accepted cfg s, x.markSeen seen)
      else (s, seen) := by
  cases x <;> rfl

theorem afterEventFree_edge_of_not_free {cfg : Config} (hfree : cfg.firstEdgeFree = false) (x : Tracked) (s : State)
    (seen : SeenBits) : (afterEventFree cfg x.edge s seen).1 = (apply cfg x.edge s).stateAfter s := by
  have htest : (decide (s.mode = .run) && intervalPassed cfg s.nowMs (x.lastMs s)) = x.accepts cfg s := by
    cases x <;> rfl
  rw [afterEventFree_edge, acceptsFree_of_not_free hfree, htest]
  cases haccepts : x.accepts cfg s with
  | true => rw [apply_edge_of_accepts haccepts, if_pos rfl, stateAfter_took]
  | false => rw [apply_edge_of_rejects haccepts, if_neg (by decide), stateAfter_took]

/-- Without FIRST_EDGE_FREE the two bits have no effect on the state. -/
theorem afterEventFree_of_not_free {cfg : Config} (hfree : cfg.firstEdgeFree = false) (i : Instr) (s : State)
    (seen : SeenBits) : (afterEventFree cfg i s seen).1 = (apply cfg i s).stateAfter s := by
  cases i with
  | edgeA => exact afterEventFree_edge_of_not_free hfree .a s seen
  | edgeB => exact afterEventFree_edge_of_not_free hfree .b s seen
  | edgeC | tick | render | encByte | latchEnd | reset => rfl

/-- With FIRST_EDGE_FREE the first edge of a button in RUN is accepted at any time. -/
theorem afterEventFree_first_edge {cfg : Config} (hfree : cfg.firstEdgeFree = true) {x : Tracked} {s : State}
    (hmode : s.mode = .run) {seen : SeenBits} (hfirst : x.seen seen = false) :
    afterEventFree cfg x.edge s seen = (x.accepted cfg s, x.markSeen seen) := by
  rw [afterEventFree_edge, hfirst, acceptsFree_of_first hfree, Bool.and_true]
  exact if_pos (decide_eq_true hmode)

/-- Settles O26. -/
theorem firstEdgeFreeAlternative : Obligations.FirstEdgeFreeAlternative := by
  intro cfg s seen
  have hfirstEdge (x : Tracked) (hfree : cfg.firstEdgeFree = true) (hmode : s.mode = .run) (hfirst : x.seen seen = false) :
      x.lastMs (afterEventFree cfg x.edge s seen).1 = s.clockUs / 1000 ∧
        (afterEventFree cfg x.edge s seen).2 = x.markSeen seen := by
    rw [afterEventFree_first_edge hfree hmode hfirst]
    exact ⟨x.accepted_lastMs cfg s, rfl⟩
  exact ⟨fun hfree i => afterEventFree_of_not_free hfree i s seen,
    fun hfree hmode => ⟨hfirstEdge .a hfree hmode, hfirstEdge .b hfree hmode⟩⟩

end Sys2Proof.Machine
end

section
/-! What RENDER draws (41_glyph_render.md sections 2 and 4): the buffer by its entries, and that no redraw request is
dropped. -/

namespace Sys2Proof.Machine

/-! The buffer by its entries (R95, R96, R97). -/

theorem glyphPixels_getElem? (n : Nat) (g : Glyph) (j : Nat) :
    (glyphPixels n g)[j]? = if j < n then some (glyphPixel g j) else none := by
  rw [glyphPixels, List.getElem?_map]
  split
  next h => rw [List.getElem?_range h, Option.map_some]
  next h => rw [List.getElem?_eq_none (by simpa using h), Option.map_none]

/-- Setting cells one after the other to one colour: an entry in the list takes the colour, any other keeps its value. -/
theorem foldl_bufSet_getElem? (c : Colour) (cells : List Nat) (buf : List Colour) (j : Nat) :
    (cells.foldl (fun buf i => bufSet i c buf) buf)[j]? =
      if j ∈ cells then (if j < buf.length then some c else none) else buf[j]? := by
  induction cells generalizing buf with
  | nil => simp
  | cons i cells ih =>
    rw [List.foldl_cons, ih, bufSet_length]
    by_cases hj : j ∈ cells
    · simp [hj]
    · by_cases hi : i = j
      · subst hi
        simp [hj, bufSet, List.getElem?_set]
      · simp [hj, hi, Ne.symm hi, bufSet]

/-- The source's sequence leaves the multiplexer's buffer: each of its sets is one entry's decision. -/
theorem drawSequence_eq_frameBuffer (cfg : Config) (d : Fin 10) : drawSequence cfg d = frameBuffer cfg d := by
  apply List.ext_getElem?
  intro j
  rw [drawSequence, foldl_bufSet_getElem?, frameBuffer, glyphPixels_getElem?, bufClear_length, bufClear,
    List.getElem?_replicate, glyphPixel]
  split <;> rfl

/-- Only which cells are in the list matters, not their order. -/
theorem glyphPixels_perm {n : Nat} {cells cells' : List Nat} {c : Colour} (h : cells.Perm cells') :
    glyphPixels n ⟨cells, c⟩ = glyphPixels n ⟨cells', c⟩ := by
  have hpixel : glyphPixel ⟨cells, c⟩ = glyphPixel ⟨cells', c⟩ := by
    funext i
    simp only [glyphPixel, h.mem_iff]
  rw [glyphPixels, glyphPixels, hpixel]

/-- Settles O28. -/
theorem drawingSequenceEqualsMultiplexer : Obligations.DrawingSequenceEqualsMultiplexer :=
  ⟨fun cfg d _ => drawSequence_eq_frameBuffer cfg d, fun _ _ _ _ => glyphPixels_perm⟩

/-! A RENDER delivered as a word. -/

theorem afterWord_render_of_draws {cfg : Config} {s : State} {d : Fin 10} (h : s.draws d) :
    afterWord cfg (encode .render) s = s.clearPending.startFrame (frameBuffer cfg d) := by
  rw [afterWord_encode cfg (i := .render) rfl, apply, applyRender_of_draws h, stateAfter_took]

/-- Settles O31: both buffers are the frame of the digit. -/
theorem sameDigitGivesTheSameBuffer : Obligations.SameDigitGivesTheSameBuffer := by
  intro s u d hs hu
  rw [afterWord_render_of_draws hs, afterWord_render_of_draws hu, drawSequence_eq_frameBuffer]
  exact ⟨rfl, rfl⟩

/-! No request is dropped (R103, safety). -/

/-- From `s` to `t` no frame is taken back, and a set redraw flag stays unless a frame is started. -/
structure KeepsRequest (s t : State) : Prop where
  frames_le : s.frames ≤ t.frames
  flag : s.redrawFlag = true → t.redrawFlag = true ∨ s.frames < t.frames

theorem KeepsRequest.refl (s : State) : KeepsRequest s s :=
  ⟨le_rfl, .inl⟩

theorem KeepsRequest.trans {s t u : State} (hst : KeepsRequest s t) (htu : KeepsRequest t u) : KeepsRequest s u where
  frames_le := hst.frames_le.trans htu.frames_le
  flag hs := by
    rcases hst.flag hs with ht | hmore
    · exact (htu.flag ht).imp_right hst.frames_le.trans_lt
    · exact .inr (hmore.trans_le htu.frames_le)

theorem EventChange.keepsRequest {cfg : Config} {s t : State} {i : Instr} (h : EventChange cfg s i t)
    (hreset : ∀ ch, i ≠ .reset ch) : KeepsRequest s t := by
  cases h with
  | draw => exact ⟨Nat.le_succ _, fun _ => .inr (Nat.lt_succ_self _)⟩
  | idle _ hnothing =>
    have hclear : s.redrawFlag ≠ true := fun hs => by simp [State.drawPending, hs] at hnothing
    exact ⟨le_rfl, fun hs => absurd hs hclear⟩
  | acceptedA | acceptedB => exact ⟨le_rfl, fun hs => .inl (by simp [State.acceptedA, State.acceptedB, hs])⟩
  | resetGood | resetFailed => exact absurd rfl (hreset _)
  | unchanged | update | time | digitFault | lastByte | byte | release => exact ⟨le_rfl, .inl⟩

theorem keepsRequest_afterWord {cfg : Config} {w : Word} (hreset : spellsReset w = false) (s : State) :
    KeepsRequest s (afterWord cfg w s) := by
  rcases wordChange_of_noReset (cfg := cfg) hreset s with ⟨i, -, hnoReset, hchange⟩ | ⟨e, -, hfault⟩
  · exact hchange.keepsRequest hnoReset
  · rw [hfault]
    exact ⟨le_rfl, .inl⟩

/-- Settles O32: the relation holds over every word, so over every run. -/
theorem pendingRedrawIsNeverDropped : Obligations.PendingRedrawIsNeverDropped := by
  intro s ws hreset hflag
  have hkept : KeepsRequest s (deliverAll Config.hardware ws s) :=
    deliverAll_keeps Config.hardware (fun w => spellsReset w = false) KeepsRequest KeepsRequest.refl
      (fun _ _ _ => KeepsRequest.trans) (fun _ s hw => keepsRequest_afterWord hw s) ws s hreset
  exact hkept.flag hflag

end Sys2Proof.Machine
end

section
/-! No lost redraw (41_glyph_render.md rule R103, liveness): in an endless run whose environment keeps the duties of
70_reset_and_hazards.md rule R141, a pending redraw is drawn. By contradiction: if no RENDER ever draws, the encoder never
rests in IDLE, so it never rests in LATCH, so it sends for ever, and its index passes the frame's end. -/

namespace Sys2Proof.Machine

/-! What the events do while a redraw is pending. -/

/-- A redraw is pending in RUN, for a digit, with the encoder inside its frame. -/
structure AwaitsDraw (s : State) : Prop where
  mode : s.mode = .run
  redraw : s.redrawFlag = true
  counter_le : s.counter.toNat ≤ 9
  encK_lt : s.encPhase = .send → s.encK.toNat < 75

/-- In IDLE the next RENDER draws. -/
theorem AwaitsDraw.exists_draws {s : State} (hs : AwaitsDraw s) (hidle : s.encPhase = .idle) : ∃ d, s.draws d :=
  ⟨⟨s.counter.toNat, Nat.lt_succ_of_le hs.counter_le⟩,
    (draws_iff s _).mpr ⟨⟨hs.mode, hidle⟩, .inl hs.redraw, rfl⟩⟩

/-- How an event moves the encoder, unless it draws or resets. -/
theorem EventChange.encoder_cases {cfg : Config} {s t : State} {i : Instr} (h : EventChange cfg s i t)
    (hdraw : i = .render → ∀ d, ¬ s.draws d) (hreset : ∀ ch, i ≠ .reset ch) :
    (t.encPhase = s.encPhase ∧ t.encK = s.encK ∧ t.latchStartUs = s.latchStartUs) ∨
    (s.encPhase = .send ∧ t.encPhase = .latch) ∨
    (s.encPhase = .send ∧ t.encPhase = .send ∧ isLastByte cfg s.encK = false ∧ t.encK = nextIndex s.encK) ∨
    (s.encPhase = .latch ∧ t.encPhase = .idle) := by
  cases h with
  | draw d hdraws => exact absurd hdraws (hdraw rfl d)
  | resetGood | resetFailed => exact absurd rfl (hreset _)
  | lastByte hfree => exact .inr (.inl ⟨((encByteHeld_false_iff s).mp hfree).right, rfl⟩)
  | byte hfree hlast =>
    have hsend := ((encByteHeld_false_iff s).mp hfree).right
    exact .inr (.inr (.inl ⟨hsend, hsend, hlast, rfl⟩))
  | release hfree =>
    obtain ⟨-, hlatch, -⟩ := (latchEndHeld_false_iff cfg s).mp hfree
    exact .inr (.inr (.inr ⟨hlatch, rfl⟩))
  | unchanged | acceptedA | acceptedB | update | time | idle | digitFault => exact .inl ⟨rfl, rfl, rfl⟩

/-- A pending redraw stays pending over every event but EDGE_C and RESET, unless it is drawn. -/
theorem AwaitsDraw.eventChange {s t : State} {i : Instr} (hs : AwaitsDraw s) (h : EventChange Config.hardware s i t)
    (hdraw : i = .render → ∀ d, ¬ s.draws d) (hedgeC : i ≠ .edgeC) (hreset : ∀ ch, i ≠ .reset ch) : AwaitsDraw t where
  counter_le := h.counter_toNat_le hs.counter_le
  mode := by
    by_contra hleft
    rcases h.leaves_run hs.mode hleft with ⟨rfl, -⟩ | ⟨rfl, -⟩ | ⟨-, hrange, -⟩
    · exact hedgeC rfl
    · exact hreset false rfl
    · exact absurd hs.counter_le (Nat.not_le.mpr hrange)
  redraw := by
    cases h with
    | draw d hdraws => exact absurd hdraws (hdraw rfl d)
    | resetGood | resetFailed => exact absurd rfl (hreset _)
    | idle _ hnothing => simp [State.drawPending, hs.redraw] at hnothing
    | acceptedA | acceptedB => simp [State.acceptedA, State.acceptedB, hs.redraw]
    | unchanged | update | time | digitFault | lastByte | byte | release => exact hs.redraw
  encK_lt hsend := by
    rcases h.encoder_cases hdraw hreset with ⟨hphase, hk, -⟩ | ⟨-, hlatch⟩ | ⟨hphase, -, hlast, hk⟩ | ⟨-, hidle⟩
    · rw [hk]
      exact hs.encK_lt (hphase ▸ hsend)
    · rw [hlatch] at hsend
      cases hsend
    · rw [hk]
      exact nextIndex_lt Config.hardware_wf (hs.encK_lt hphase) hlast
    · rw [hidle] at hsend
      cases hsend

/-- An edge in RUN that changes the counter leaves a redraw pending. -/
theorem awaitsDraw_of_counter_changes {x : Tracked} {since : Nat} {s : State} (hs : Inv Config.hardware since s)
    (hmode : s.mode = .run)
    (hchanged : (afterWord Config.hardware (encode x.edge) s).counter ≠ s.counter) :
    AwaitsDraw (afterWord Config.hardware (encode x.edge) s) := by
  cases haccepts : x.accepts Config.hardware s with
  | false =>
    rw [afterWord_edge_of_rejects haccepts] at hchanged
    exact absurd rfl hchanged
  | true =>
    have hdigit := counter_toNat_le_afterWord (cfg := Config.hardware) (encode x.edge)
      ((counter_le_iff _).mp hs.counter_le)
    rw [afterWord_edge_of_accepts haccepts] at hchanged hdigit ⊢
    refine ⟨(x.accepted_mode _ s).trans hmode, (x.accepted_redrawFlag_iff _ s).mpr (.inr (.inl hchanged)), hdigit, ?_⟩
    rw [x.accepted_eq]
    cases x <;> exact hs.encK_lt

/-! An endless run in which no RENDER draws. -/

/-- From time `n` on a redraw is pending, the words are events other than EDGE_C and RESET, and no RENDER draws. -/
structure NeverDraws (env : Nat → Word) (s : State) (n : Nat) : Prop where
  awaits : ∀ m, n ≤ m → AwaitsDraw (trace Config.hardware env s m)
  change : ∀ m, n ≤ m → ∃ i, decode (env m) = .ok i ∧ (∀ ch, i ≠ .reset ch) ∧
    (i = .render → ∀ d, ¬ (trace Config.hardware env s m).draws d) ∧
    EventChange Config.hardware (trace Config.hardware env s m) i (trace Config.hardware env s (m + 1))

/-- A number that never falls and grows again and again passes every bound. -/
theorem exists_le_of_grows {f : Nat → Nat} {m : Nat} (hmono : ∀ k, m ≤ k → f k ≤ f (k + 1))
    (hgrows : ∀ k, m ≤ k → ∃ l, k ≤ l ∧ f l < f (l + 1)) (bound : Nat) : ∃ k, m ≤ k ∧ bound ≤ f k := by
  have hle : MonotoneOn f {k | m ≤ k} := monotoneOn_nat_Ici_of_le_succ hmono
  induction bound with
  | zero => exact ⟨m, le_rfl, Nat.zero_le _⟩
  | succ bound ih =>
    obtain ⟨k, hmk, hbound⟩ := ih
    obtain ⟨l, hkl, hlt⟩ := hgrows k hmk
    exact ⟨l + 1, (hmk.trans hkl).trans l.le_succ, (hbound.trans (hle hmk (hmk.trans hkl) hkl)).trans_lt hlt⟩

theorem trace_succ_of_spells {env : Nat → Word} {m : Nat} {i : Instr} (h : spells (env m) i = true) (s : State) :
    trace Config.hardware env s (m + 1) =
      afterWord Config.hardware (encode i) (trace Config.hardware env s m) := by
  rw [trace_succ, encode_eq_of_decode_eq_ok ((spells_iff _ _).mp h)]

section
variable {env : Nat → Word} {s : State} {n : Nat}

theorem NeverDraws.encoder_cases (hnever : NeverDraws env s n) {m : Nat} (hm : n ≤ m) :
    ((trace Config.hardware env s (m + 1)).encPhase = (trace Config.hardware env s m).encPhase ∧
      (trace Config.hardware env s (m + 1)).encK = (trace Config.hardware env s m).encK ∧
      (trace Config.hardware env s (m + 1)).latchStartUs = (trace Config.hardware env s m).latchStartUs) ∨
    ((trace Config.hardware env s m).encPhase = .send ∧ (trace Config.hardware env s (m + 1)).encPhase = .latch) ∨
    ((trace Config.hardware env s m).encPhase = .send ∧ (trace Config.hardware env s (m + 1)).encPhase = .send ∧
      isLastByte Config.hardware (trace Config.hardware env s m).encK = false ∧
      (trace Config.hardware env s (m + 1)).encK = nextIndex (trace Config.hardware env s m).encK) ∨
    ((trace Config.hardware env s m).encPhase = .latch ∧ (trace Config.hardware env s (m + 1)).encPhase = .idle) := by
  obtain ⟨i, -, hreset, hdraw, hchange⟩ := hnever.change m hm
  exact hchange.encoder_cases hdraw hreset

theorem NeverDraws.clockUs_le_succ (hnever : NeverDraws env s n) {m : Nat} (hm : n ≤ m) :
    (trace Config.hardware env s m).clockUs ≤ (trace Config.hardware env s (m + 1)).clockUs := by
  obtain ⟨i, -, hreset, -, hchange⟩ := hnever.change m hm
  exact hchange.clockUs_le hreset

theorem NeverDraws.clockUs_le (hnever : NeverDraws env s n) {m k : Nat} (hm : n ≤ m) (hmk : m ≤ k) :
    (trace Config.hardware env s m).clockUs ≤ (trace Config.hardware env s k).clockUs :=
  monotoneOn_nat_Ici_of_le_succ (f := fun k => (trace Config.hardware env s k).clockUs)
    (fun _ => hnever.clockUs_le_succ) hm (hm.trans hmk) hmk

/-- An encoder in IDLE would stay there until the next RENDER, which would draw. -/
theorem NeverDraws.not_idle (hduties : Duties Config.hardware env s) (hnever : NeverDraws env s n) {m : Nat} (hm : n ≤ m) :
    (trace Config.hardware env s m).encPhase ≠ .idle := by
  intro hidle
  have hstays : ∀ k, m ≤ k → (trace Config.hardware env s k).encPhase = .idle := fun k hk => by
    induction k, hk using Nat.le_induction with
    | base => exact hidle
    | succ k hk ih =>
      rcases hnever.encoder_cases (hm.trans hk) with ⟨hphase, -⟩ | ⟨hsend, -⟩ | ⟨hsend, -⟩ | ⟨-, hnext⟩
      · exact hphase.trans ih
      · rw [ih] at hsend
        cases hsend
      · rw [ih] at hsend
        cases hsend
      · exact hnext
  obtain ⟨k, hk, hrender⟩ := hduties.renderRuns m
  obtain ⟨d, hdraws⟩ := (hnever.awaits k (hm.trans hk)).exists_draws (hstays k hk)
  obtain ⟨i, hdecode, -, hdraw, -⟩ := hnever.change k (hm.trans hk)
  cases hdecode.symm.trans ((spells_iff _ _).mp hrender)
  exact hdraw rfl d hdraws

/-- The clock passes every bound. -/
theorem NeverDraws.exists_clockUs_ge (hduties : Duties Config.hardware env s) (hnever : NeverDraws env s n) {m : Nat}
    (hm : n ≤ m) (bound : Nat) : ∃ k, m ≤ k ∧ bound ≤ (trace Config.hardware env s k).clockUs := by
  refine exists_le_of_grows (f := fun k => (trace Config.hardware env s k).clockUs)
    (fun k hk => hnever.clockUs_le_succ (hm.trans hk)) (fun k hk => ?_) bound
  obtain ⟨l, dt, hkl, hdt, htick⟩ := hduties.timeGrows k
  refine ⟨l, hkl, ?_⟩
  rw [trace_succ, afterWord_of_decode _ ((spells_iff _ _).mp htick)]
  exact Nat.lt_add_of_pos_right hdt

/-- An encoder in LATCH would stay there until its 100 µs are over, and then until the next LATCH_END, which would release
it. -/
theorem NeverDraws.not_latch (hduties : Duties Config.hardware env s) (hnever : NeverDraws env s n) {m : Nat}
    (hm : n ≤ m) : (trace Config.hardware env s m).encPhase ≠ .latch := by
  intro hlatch
  have hstays : ∀ k, m ≤ k → (trace Config.hardware env s k).encPhase = .latch ∧
      (trace Config.hardware env s k).latchStartUs = (trace Config.hardware env s m).latchStartUs := fun k hk => by
    induction k, hk using Nat.le_induction with
    | base => exact ⟨hlatch, rfl⟩
    | succ k hk ih =>
      obtain ⟨hphase, hstart⟩ := ih
      rcases hnever.encoder_cases (hm.trans hk) with ⟨hsame, -, hstart'⟩ | ⟨hsend, -⟩ | ⟨hsend, -⟩ | ⟨-, hidle⟩
      · exact ⟨hsame.trans hphase, hstart'.trans hstart⟩
      · rw [hphase] at hsend
        cases hsend
      · rw [hphase] at hsend
        cases hsend
      · exact absurd hidle (hnever.not_idle hduties ((hm.trans hk).trans k.le_succ))
  have hreleased : ∀ k, m ≤ k →
      (trace Config.hardware env s m).latchStartUs + 100 ≤ (trace Config.hardware env s k).clockUs →
      (trace Config.hardware env s k).latchEndHeld Config.hardware = false := fun k hk hclock => by
    obtain ⟨hphase, hstart⟩ := hstays k hk
    refine (latchEndHeld_false_iff _ _).mpr ⟨(hnever.awaits k (hm.trans hk)).mode, hphase, ?_⟩
    rw [hstart, Config.hardware_resetUs]
    omega
  obtain ⟨k, hk, hclock⟩ := hnever.exists_clockUs_ge hduties hm ((trace Config.hardware env s m).latchStartUs + 100)
  obtain ⟨l, hkl, hend⟩ := hduties.latchReleases k (hreleased k hk hclock)
  have hlater := hclock.trans (hnever.clockUs_le (hm.trans hk) hkl)
  have heffect : apply Config.hardware .latchEnd (trace Config.hardware env s l) =
      .took (trace Config.hardware env s l).releaseLatch :=
    if_neg (Bool.eq_false_iff.mp (hreleased l (hk.trans hkl) hlater))
  refine hnever.not_idle hduties ((hm.trans (hk.trans hkl)).trans l.le_succ) ?_
  rw [trace_succ, afterWord_of_decode _ ((spells_iff _ _).mp hend), heffect]
  rfl

/-- An encoder that sends for ever would leave the frame. -/
theorem NeverDraws.false (hduties : Duties Config.hardware env s) (hnever : NeverDraws env s n) : False := by
  have hsend : ∀ k, n ≤ k → (trace Config.hardware env s k).encPhase = .send := fun k hk => by
    have hidle := hnever.not_idle hduties hk
    have hlatch := hnever.not_latch hduties hk
    cases hphase : (trace Config.hardware env s k).encPhase with
    | idle => exact absurd hphase hidle
    | latch => exact absurd hphase hlatch
    | send => rfl
  have hinside : ∀ k, n ≤ k → (trace Config.hardware env s k).encK.toNat < 75 := fun k hk =>
    (hnever.awaits k hk).encK_lt (hsend k hk)
  have hmono : ∀ k, n ≤ k → (trace Config.hardware env s k).encK.toNat ≤ (trace Config.hardware env s (k + 1)).encK.toNat :=
    fun k hk => by
      have hlt := hinside k hk
      rcases hnever.encoder_cases hk with ⟨-, hsame, -⟩ | ⟨-, hlatch⟩ | ⟨-, -, -, hnext⟩ | ⟨hlatch, -⟩
      · rw [hsame]
      · exact absurd hlatch (hnever.not_latch hduties (hk.trans k.le_succ))
      · rw [hnext, nextIndex_toNat (by omega)]
        exact Nat.le_succ _
      · exact absurd hlatch (hnever.not_latch hduties hk)
  have hgrows : ∀ k, n ≤ k → ∃ l, k ≤ l ∧
      (trace Config.hardware env s l).encK.toNat < (trace Config.hardware env s (l + 1)).encK.toNat := fun k hk => by
    obtain ⟨l, hkl, hbyte⟩ := hduties.sinkAccepts k (hnever.awaits k hk).mode (hsend k hk)
    have hl := hk.trans hkl
    have hlt := hinside l hl
    have hfree := (encByteHeld_false_iff _).mpr ⟨(hnever.awaits l hl).mode, hsend l hl⟩
    have hnext := trace_succ_of_spells hbyte s
    refine ⟨l, hkl, ?_⟩
    by_cases hlast : (trace Config.hardware env s l).encK.toNat = 3 * Config.hardware.nCells - 1
    · rw [afterWord_encByte_of_last hfree hlast] at hnext
      exact absurd (congrArg State.encPhase hnext) (hnever.not_latch hduties (hl.trans l.le_succ))
    · rw [afterWord_encByte_of_not_last hfree hlast] at hnext
      rw [hnext, State.nextByte_encK, State.sinkWrite_encK, nextIndex_toNat (by omega)]
      exact Nat.lt_succ_self _
  obtain ⟨k, hk, hpast⟩ := exists_le_of_grows hmono hgrows 75
  exact absurd (hinside k hk) (Nat.not_lt.mpr hpast)

/-- A pending redraw is drawn at some later time. -/
theorem exists_draws_of_awaitsDraw (hduties : Duties Config.hardware env s)
    (hawaits : AwaitsDraw (trace Config.hardware env s n))
    (hquiet : ∀ m, n ≤ m → ∃ i, decode (env m) = .ok i ∧ i ≠ .edgeC ∧ ∀ ch, i ≠ .reset ch) :
    ∃ m, n ≤ m ∧ spells (env m) .render = true ∧ ∃ d, (trace Config.hardware env s m).draws d := by
  by_contra hnone
  have hdraw : ∀ m, n ≤ m → ∀ i, decode (env m) = .ok i → i = .render → ∀ d, ¬ (trace Config.hardware env s m).draws d := by
    rintro m hm i hdecode rfl d hdraws
    exact hnone ⟨m, hm, (spells_iff _ _).mpr hdecode, d, hdraws⟩
  have hchange (m : Nat) {i : Instr} (hdecode : decode (env m) = .ok i) :
      EventChange Config.hardware (trace Config.hardware env s m) i (trace Config.hardware env s (m + 1)) := by
    rw [trace_succ, afterWord_of_decode _ hdecode]
    exact eventChange _ i _
  have hstays : ∀ m, n ≤ m → AwaitsDraw (trace Config.hardware env s m) := fun m hm => by
    induction m, hm using Nat.le_induction with
    | base => exact hawaits
    | succ m hm ih =>
      obtain ⟨i, hdecode, hedgeC, hreset⟩ := hquiet m hm
      exact ih.eventChange (hchange m hdecode) (hdraw m hm i hdecode) hedgeC hreset
  refine NeverDraws.false hduties (n := n) ⟨hstays, fun m hm => ?_⟩
  obtain ⟨i, hdecode, -, hreset⟩ := hquiet m hm
  exact ⟨i, hdecode, hreset, hdraw m hm i hdecode, hchange m hdecode⟩

end

/-- Settles O33. -/
theorem everyChangeIsEventuallyDrawn : Obligations.EveryChangeIsEventuallyDrawn := by
  intro env s since n hduties hinv hmode hedge hchanged hquiet
  obtain ⟨x, hx⟩ : ∃ x : Tracked, spells (env n) x.edge = true := hedge.elim (fun h => ⟨.a, h⟩) (fun h => ⟨.b, h⟩)
  rw [trace_succ_of_spells hx] at hchanged
  have hawaits := awaitsDraw_of_counter_changes hinv hmode hchanged
  rw [← trace_succ_of_spells hx] at hawaits
  obtain ⟨m, hm, hrender, d, hdraws⟩ := exists_draws_of_awaitsDraw hduties hawaits hquiet
  have hframe := trace_succ_of_spells hrender s
  rw [afterWord_render_of_draws hdraws] at hframe
  obtain ⟨-, -, hdigit⟩ := (draws_iff _ d).mp hdraws
  refine ⟨m, d, hm, hrender, hdigit, ?_⟩
  rw [hframe]
  exact ⟨rfl, rfl, rfl⟩

end Sys2Proof.Machine
end

section
/-! The encoder over a run (30_encoding.md rule R71; 42_led_encoder.md rules R108, R109): the output signals, the latch
window, and the bytes of a frame. -/

namespace Sys2Proof.Machine

/-! The output signals (R71, R33). -/

theorem sinkValid_eq (s : State) : s.sinkValid = !s.encByteHeld := by
  rw [Bool.eq_iff_iff, Bool.not_eq_true', encByteHeld_false_iff]
  simp [State.sinkValid]

/-- ENC_BYTE writes the byte offered, whether or not it is the frame's last. -/
theorem apply_encByte_of_not_held {s : State} (cfg : Config) (hfree : s.encByteHeld = false) :
    ∃ t, apply cfg .encByte s = .took t ∧ t.out = s.out ++ [s.sinkData] := by
  rcases applyEncByte_cases cfg s with ⟨hheld, -⟩ | ⟨-, -, heffect⟩ | ⟨-, -, heffect⟩
  · rw [hfree] at hheld
    cases hheld
  · exact ⟨_, heffect, rfl⟩
  · exact ⟨_, heffect, rfl⟩

/-- Settles O39: `sink_valid` is the condition under which ENC_BYTE is taken. -/
theorem outputsForetellTheByte : Obligations.OutputsForetellTheByte := by
  intro s
  rw [sinkValid_eq]
  refine ⟨fun hvalid => apply_encByte_of_not_held _ ((Bool.not_eq_true' _).mp hvalid),
    fun hnot => if_pos ((Bool.not_eq_false' _).mp hnot), ?_, ?_⟩
  · simp [State.busy]
  · simp [State.updateReq]

/-! The lockout (R108). -/

/-- Before its 100 µs are over, no event but RESET ends the latch window, moves its start or writes a byte. -/
theorem EventChange.locked_of_early {s t : State} {i : Instr} (h : EventChange Config.hardware s i t)
    (hreset : ∀ ch, i ≠ .reset ch) (hlatch : s.encPhase = .latch) (hearly : t.clockUs < s.latchStartUs + 100) :
    t.encPhase = .latch ∧ t.latchStartUs = s.latchStartUs ∧ t.out = s.out := by
  cases h with
  | draw d hdraws =>
    obtain ⟨⟨-, hidle⟩, -⟩ := (draws_iff s d).mp hdraws
    rw [hlatch] at hidle
    cases hidle
  | lastByte hfree | byte hfree =>
    obtain ⟨-, hsend⟩ := (encByteHeld_false_iff s).mp hfree
    rw [hlatch] at hsend
    cases hsend
  | release hfree =>
    obtain ⟨-, -, hpassed⟩ := (latchEndHeld_false_iff _ s).mp hfree
    rw [Config.hardware_resetUs] at hpassed
    rw [State.releaseLatch_clockUs] at hearly
    omega
  | resetGood | resetFailed => exact absurd rfl (hreset _)
  | unchanged | acceptedA | acceptedB | update | time | idle | digitFault => exact ⟨hlatch, rfl, rfl⟩

/-- The latch window that started at `start` with the bytes `out` written lasts until its 100 µs are over. -/
structure Locked (start : Nat) (out : List Byte) (s : State) : Prop where
  phase : s.encPhase = .latch
  start_eq : s.latchStartUs = start
  out_eq : s.out = out

theorem Locked.afterWord {start : Nat} {out : List Byte} {s : State} {w : Word} (hs : Locked start out s)
    (hreset : spellsReset w = false) (hearly : (afterWord Config.hardware w s).clockUs < start + 100) :
    Locked start out (afterWord Config.hardware w s) := by
  rcases wordChange_of_noReset (cfg := Config.hardware) hreset s with ⟨i, -, hnoReset, hchange⟩ | ⟨e, -, hfault⟩
  · obtain ⟨hphase, hstart, hout⟩ := hchange.locked_of_early hnoReset hs.phase (hs.start_eq ▸ hearly)
    exact ⟨hphase, hstart.trans hs.start_eq, hout.trans hs.out_eq⟩
  · rw [hfault]
    exact { hs with }

/-- Time does not go back, so every state of a run that ends early is early. -/
theorem Locked.deliverAll {start : Nat} {out : List Byte} {s : State} {ws : List Word} (hs : Locked start out s)
    (hreset : NoReset ws) (hearly : (deliverAll Config.hardware ws s).clockUs < start + 100) :
    Locked start out (deliverAll Config.hardware ws s) := by
  have hkept := deliverAll_invariant (cfg := Config.hardware) (ok := fun w => spellsReset w = false)
    (P := fun u => u.clockUs < start + 100 → Locked start out u)
    (fun w u hw hu hlater => (hu ((clockUs_le_afterWord hw u).trans_lt hlater)).afterWord hw hlater) hreset
    (fun _ => hs)
  exact hkept hearly

/-- The ENC_BYTE that leads to LATCH starts the window at its time. -/
theorem EventChange.locked_of_latch {cfg : Config} {s t : State} (h : EventChange cfg s .encByte t)
    (hsend : s.encPhase = .send) (hlatch : t.encPhase = .latch) : Locked s.clockUs t.out t := by
  cases h with
  | lastByte => exact ⟨rfl, rfl, rfl⟩
  | unchanged | byte => exact absurd (hsend.symm.trans hlatch) (by decide)

/-- Settles O36. -/
theorem latchWindowLockout : Obligations.LatchWindowLockout := by
  intro s t ws hsend hexec hlatch hreset hearly
  obtain ⟨u, vs, hchange, rfl⟩ := exec_change_up_to_input hexec
  have hlocked : Locked s.clockUs u.out { u with input := vs } := { hchange.locked_of_latch hsend hlatch with }
  exact (hlocked.deliverAll hreset hearly).out_eq

/-! Frame content (R109). -/

/-- The frame of the cells `pixels`, started when the bytes `out` were written: still being sent, its first `n` bytes
out, or sent, with whatever came after it. -/
inductive FrameProgress (pixels : List Colour) (out : List Byte) (s : State) : Prop where
  | sending (n : Nat) (inside : n < 75) (phase : s.encPhase = .send) (index : s.encK.toNat = n) (buf_eq : s.buf = pixels)
      (out_eq : s.out = out ++ (serialize pixels).take n)
  | sent (more : List Byte) (out_eq : s.out = out ++ (serialize pixels ++ more))

/-- Fault entry writes no register that the progress of a frame speaks of. -/
theorem FrameProgress.enterFault {pixels : List Colour} {out : List Byte} {s : State} (hs : FrameProgress pixels out s)
    (f : FaultKind) : FrameProgress pixels out (s.enterFault f) := by
  cases hs with
  | sending n inside phase index buf_eq out_eq => exact .sending n inside phase index buf_eq out_eq
  | sent more out_eq => exact .sent more out_eq

theorem FrameProgress.eventChange {pixels : List Colour} {out : List Byte} {s t : State} {i : Instr}
    (hlen : pixels.length = 25) (hs : FrameProgress pixels out s) (h : EventChange Config.hardware s i t)
    (hreset : ∀ ch, i ≠ .reset ch) : FrameProgress pixels out t := by
  cases hs with
  | sent more out_eq =>
    rcases h.out_cases with hsame | ⟨-, -, hbyte⟩
    · exact .sent more (hsame.trans out_eq)
    · exact .sent (more ++ [encByteAt s.buf s.encK]) (by rw [hbyte, out_eq]; simp)
  | sending n inside phase index buf_eq out_eq =>
    have hbyte : (s.sinkWrite (encByteAt s.buf s.encK)).out = out ++ (serialize pixels).take (n + 1) := by
      subst index buf_eq
      rw [State.sinkWrite_out, out_eq, List.append_assoc, serialize_take_append_encByteAt (by omega)]
    cases h with
    | lastByte _ hlast =>
      have hn : n + 1 = 75 := by rw [← index, (isLastByte_iff _ _).mp hlast]; rfl
      have hall : (serialize pixels).take (n + 1) = serialize pixels :=
        List.take_of_length_le (by rw [serialize_length]; omega)
      exact .sent [] (by rw [State.startLatch_out, hbyte, hall, List.append_nil])
    | byte _ hlast =>
      have hnext : (nextIndex s.encK).toNat = n + 1 := by rw [nextIndex_toNat (by omega), index]
      have hlt := nextIndex_lt Config.hardware_wf (by rw [Config.hardware_nCells]; omega) hlast
      exact .sending (n + 1) (hnext ▸ hlt) phase hnext buf_eq hbyte
    | draw d hdraws =>
      obtain ⟨⟨-, hidle⟩, -⟩ := (draws_iff s d).mp hdraws
      rw [phase] at hidle
      cases hidle
    | release hfree =>
      obtain ⟨-, hlatch, -⟩ := (latchEndHeld_false_iff _ s).mp hfree
      rw [phase] at hlatch
      cases hlatch
    | resetGood | resetFailed => exact absurd rfl (hreset _)
    | unchanged | acceptedA | acceptedB | update | time | idle | digitFault =>
      exact .sending n inside phase index buf_eq out_eq

theorem FrameProgress.afterWord {pixels : List Colour} {out : List Byte} {s : State} {w : Word}
    (hlen : pixels.length = 25) (hs : FrameProgress pixels out s) (hreset : spellsReset w = false) :
    FrameProgress pixels out (afterWord Config.hardware w s) := by
  rcases wordChange_of_noReset (cfg := Config.hardware) hreset s with ⟨i, -, hnoReset, hchange⟩ | ⟨e, -, hfault⟩
  · exact hs.eventChange hlen hchange hnoReset
  · rw [hfault]
    exact hs.enterFault .illegalEvent

/-- The bytes written since the frame began are those of the frame, as far as they go. -/
theorem FrameProgress.exists_bytes {pixels : List Colour} {out : List Byte} {s : State} (hlen : pixels.length = 25)
    (hs : FrameProgress pixels out s) :
    ∃ bytes, s.out = out ++ bytes ∧ bytes.take 75 = (serialize pixels).take bytes.length := by
  have hframe : (serialize pixels).length = 75 := by rw [serialize_length, hlen]
  cases hs with
  | sending n inside _ _ _ out_eq =>
    refine ⟨_, out_eq, ?_⟩
    rw [List.take_take, List.length_take, hframe, Nat.min_comm]
  | sent more out_eq =>
    refine ⟨_, out_eq, ?_⟩
    rw [List.take_of_length_le (l := serialize pixels) (by simp), ← hframe, List.take_left]

/-- The frame of a digit, cell by cell. -/
theorem serialize_frameBuffer (d : Fin 10) :
    serialize (frameBuffer Config.hardware d) =
      (List.range 25).flatMap (fun i =>
        [(pix Config.hardware d i).g, (pix Config.hardware d i).r, (pix Config.hardware d i).b]) := by
  rw [serialize, frameBuffer, glyphPixels, List.flatMap_map]
  rfl

/-- Settles O35: a frame begins with no byte of it sent. -/
theorem frameShowsTheDrawnDigit : Obligations.FrameShowsTheDrawnDigit := by
  intro s d ws hdraws hreset _
  have hlen : (frameBuffer Config.hardware d).length = 25 := frameBuffer_length Config.hardware d
  have hbegin : FrameProgress (frameBuffer Config.hardware d) s.out
      (s.clearPending.startFrame (frameBuffer Config.hardware d)) :=
    .sending 0 (by decide) rfl rfl rfl (List.append_nil s.out).symm
  rw [afterWord_render_of_draws hdraws, ← serialize_frameBuffer]
  have hrun := deliverAll_invariant (cfg := Config.hardware) (fun _ _ hw hu => hu.afterWord hlen hw) hreset hbegin
  exact hrun.exists_bytes hlen

end Sys2Proof.Machine
end

section
/-! The pseudo-events as runs (30_encoding.md rules R73 to R75): the waits and FLUSH. -/

namespace Sys2Proof.Machine

/-! Runs of words that do not hold. -/

theorem runWords_cons_of_not_held {cfg : Config} {w : Word} {ws : List Word} {s : State}
    (h : (applyWord cfg w s).isHold = false) :
    runWords cfg (w :: ws) s = runWords cfg ws (afterWord cfg w s) := by
  rw [runWords, if_neg (Bool.eq_false_iff.mp h)]

theorem applyWord_encode (cfg : Config) {i : Instr} (hwf : i.WellFormed) (s : State) :
    applyWord cfg (encode i) s = apply cfg i s := by
  rw [applyWord, decode_encode hwf]

theorem runWords_cons_of_took {cfg : Config} {i : Instr} {ws : List Word} {s t : State} (hwf : i.WellFormed)
    (h : apply cfg i s = .took t) : runWords cfg (encode i :: ws) s = runWords cfg ws t := by
  have happly := (applyWord_encode cfg hwf s).trans h
  rw [runWords_cons_of_not_held (by rw [happly]; rfl), afterWord, happly, stateAfter_took]

/-- A list that is run to its end may be followed by another. -/
theorem runWords_append {cfg : Config} {us : List Word} (ws : List Word) {s t : State} (h : runWords cfg us s = (t, [])) :
    runWords cfg (us ++ ws) s = runWords cfg ws t := by
  induction us generalizing s with
  | nil =>
    cases h
    rfl
  | cons u us ih =>
    cases hhold : (applyWord cfg u s).isHold with
    | true =>
      rw [runWords, if_pos hhold] at h
      cases h
    | false =>
      rw [runWords_cons_of_not_held hhold] at h
      rw [List.cons_append, runWords_cons_of_not_held hhold, ih h]

/-! The waits (R73, R74). -/

/-- TICKs that words can hold advance the clock by their sum. -/
theorem runWords_ticks (cfg : Config) {dts : List Nat} (hfit : ∀ dt ∈ dts, dt ≤ maxTick) (s : State) :
    runWords cfg ((dts.map Instr.tick).map encode) s = (s.advanceClock dts.sum, []) := by
  induction dts generalizing s with
  | nil => rfl
  | cons dt dts ih =>
    obtain ⟨hdt, hrest⟩ := List.forall_mem_cons.mp hfit
    have hwf : (Instr.tick dt).WellFormed := decide_eq_true (Nat.lt_succ_of_le hdt)
    rw [List.map_cons, List.map_cons, runWords_cons_of_took hwf rfl, ih hrest, List.sum_cons, State.advanceClock,
      State.advanceClock, State.advanceClock, Nat.add_assoc]

/-- The TICKs of a wait: each fits a word, and together they are the time named. -/
theorem exists_waitTicks (n : Nat) :
    ∃ dts : List Nat, waitTicks n = dts.map Instr.tick ∧ (∀ dt ∈ dts, dt ≤ maxTick) ∧ dts.sum = n := by
  unfold waitTicks
  split
  next hshort => exact ⟨[n], rfl, by simpa using hshort, by simp⟩
  next =>
    have hdiv := Nat.div_add_mod' n maxTick
    split
    next hexact =>
      refine ⟨List.replicate (n / maxTick) maxTick, by simp, fun dt hdt => (List.eq_of_mem_replicate hdt).le, ?_⟩
      rw [List.sum_replicate, smul_eq_mul]
      omega
    next =>
      refine ⟨List.replicate (n / maxTick) maxTick ++ [n % maxTick], by simp, fun dt hdt => ?_, ?_⟩
      · rcases List.mem_append.mp hdt with hfull | hrest
        · exact (List.eq_of_mem_replicate hfull).le
        · rw [List.mem_singleton.mp hrest]
          exact (Nat.mod_lt n (by decide)).le
      · rw [List.sum_append, List.sum_replicate, smul_eq_mul, List.sum_singleton, hdiv]

theorem waitTicks_wellFormed {n : Nat} {i : Instr} (hi : i ∈ waitTicks n) : i.WellFormed := by
  obtain ⟨dts, hticks, hfit, -⟩ := exists_waitTicks n
  rw [hticks] at hi
  obtain ⟨dt, hdt, rfl⟩ := List.mem_map.mp hi
  exact decide_eq_true (Nat.lt_succ_of_le (hfit dt hdt))

theorem runWords_waitTicks (cfg : Config) (n : Nat) (s : State) :
    runWords cfg ((waitTicks n).map encode) s = (s.advanceClock n, []) := by
  obtain ⟨dts, hticks, hfit, hsum⟩ := exists_waitTicks n
  rw [hticks, runWords_ticks cfg hfit, hsum]

/-- Settles O57. -/
theorem waitsAdvanceTimeExactly : Obligations.WaitsAdvanceTimeExactly :=
  fun n s => ⟨fun _ => waitTicks_wellFormed, runWords_waitTicks _ n s, runWords_waitTicks _ (1000 * n) s⟩

/-! FLUSH (R75). -/

/-- No ENC_BYTE of a frame holds: each but the last leaves the encoder in SEND. -/
theorem runWords_encByte {cfg : Config} {s : State} (hheld : s.encByteHeld = false) (hfit : 3 * cfg.nCells ≤ 2 ^ 7)
    (hlen : s.buf.length = cfg.nCells) (hk : s.encK = 0#7) (n : Nat) (hn : n ≤ 3 * cfg.nCells) :
    runWords cfg (List.replicate n (encode .encByte)) s =
      (deliverAll cfg (List.replicate n (encode .encByte)) s, []) := by
  induction n with
  | zero => rfl
  | succ n ih =>
    have hsent := deliverAll_encByte_eq_withBytesSent hheld hfit hlen hk n hn
    have hfree : (applyWord cfg (encode .encByte) (s.withBytesSent n)).isHold = false := by
      obtain ⟨t, htook, -⟩ := apply_encByte_of_not_held (s := s.withBytesSent n) cfg hheld
      rw [applyWord_encode cfg (i := .encByte) rfl, htook, isHold_took]
    rw [deliverAll_replicate_succ, List.replicate_succ', runWords_append _ (ih (Nat.le_of_succ_le hn)), hsent,
      runWords_cons_of_not_held hfree, runWords]

/-- Once the window is 100 µs old, LATCH_END is taken. -/
theorem runWords_tick_latchEnd {s : State} (hmode : s.mode = .run) (hphase : s.encPhase = .latch)
    (hstart : s.latchStartUs = s.clockUs) :
    runWords Config.hardware [encode (.tick 100), encode .latchEnd] s = ((s.advanceClock 100).releaseLatch, []) := by
  have hfree : (s.advanceClock 100).latchEndHeld Config.hardware = false := by
    refine (latchEndHeld_false_iff _ _).mpr ⟨hmode, hphase, ?_⟩
    rw [State.advanceClock_clockUs, State.advanceClock_latchStartUs, hstart, Config.hardware_resetUs]
    omega
  have hrelease : apply Config.hardware .latchEnd (s.advanceClock 100) = .took (s.advanceClock 100).releaseLatch :=
    if_neg (Bool.eq_false_iff.mp hfree)
  rw [runWords_cons_of_took (i := .tick 100) rfl rfl, runWords_cons_of_took (i := .latchEnd) rfl hrelease, runWords]

/-- Settles O38: RENDER draws, 75 ENC_BYTEs send the frame, and the TICK completes the 100 µs that LATCH_END waits for. -/
theorem flushDrawsOneFrame : Obligations.FlushDrawsOneFrame := by
  intro s d hdraws
  obtain ⟨⟨hmode, -⟩, -⟩ := (draws_iff s d).mp hdraws
  obtain ⟨-, hfit⟩ := Config.frame_bounds_of_wf Config.hardware_wf
  have hlen : (frameBuffer Config.hardware d).length = 25 := frameBuffer_length Config.hardware d
  have hheld : (s.clearPending.startFrame (frameBuffer Config.hardware d)).encByteHeld = false :=
    (encByteHeld_false_iff _).mpr ⟨hmode, rfl⟩
  have hframe := flushSerializesTheBuffer Config.hardware
    (s.clearPending.startFrame (frameBuffer Config.hardware d)) Config.hardware_wf hmode rfl rfl hlen
  have hsent := (runWords_encByte hheld hfit hlen rfl 75 le_rfl).trans (congrArg (·, []) hframe)
  have hwords : (Pseudo.expand Config.hardware .flush).map encode =
      encode .render :: (List.replicate 75 (encode .encByte) ++ [encode (.tick 100), encode .latchEnd]) := by
    simp [Pseudo.expand]
  rw [hwords, runWords_cons_of_took (i := .render) rfl (applyRender_of_draws hdraws), runWords_append _ hsent]
  exact runWords_tick_latchEnd hmode rfl rfl

end Sys2Proof.Machine
end

section
/-! The four time registers in 64 bits (10_state.md rule R38): below 2^64 µs nothing wraps, where the
earlier time is subtracted from the later. -/

namespace Sys2Proof.Machine

theorem toNat_ofNat_64 {n : Nat} (h : n < 2 ^ 64) : (BitVec.ofNat 64 n).toNat = n :=
  (BitVec.toNat_ofNat n 64).trans (Nat.mod_eq_of_lt h)

theorem nowMs64_toNat {clock : Nat} (h : clock < 2 ^ 64) : (nowMs64 (BitVec.ofNat 64 clock)).toNat = clock / 1000 := by
  rw [nowMs64, BitVec.toNat_udiv, toNat_ofNat_64 h]
  rfl

theorem intervalPassed64_eq {cfg : Config} {now last : BitVec 64} (hcfg : cfg.debounceMs < 2 ^ 64)
    (h : last.toNat ≤ now.toNat) : intervalPassed64 cfg now last = intervalPassed cfg now.toNat last.toNat := by
  rw [intervalPassed64, intervalPassed, decide_eq_decide, ge_iff_le, BitVec.le_def, toNat_ofNat_64 hcfg,
    BitVec.toNat_sub_of_le (BitVec.le_def.mpr h)]

theorem latchElapsed64_eq {cfg : Config} {s : State} {clock start : BitVec 64} (hcfg : cfg.resetUs < 2 ^ 64)
    (hclock : clock.toNat = s.clockUs) (hstart : start.toNat = s.latchStartUs) (h : s.latchStartUs ≤ s.clockUs) :
    latchElapsed64 cfg clock start = s.latchElapsed cfg := by
  rw [latchElapsed64, State.latchElapsed, Bool.not_inj_iff, decide_eq_decide, BitVec.lt_def, toNat_ofNat_64 hcfg,
    BitVec.toNat_sub_of_le (BitVec.le_def.mpr (by omega)), hclock, hstart]

/-- Settles O51. -/
theorem sixtyFourBitTimesAgree : Obligations.SixtyFourBitTimesAgree := by
  intro s hclock ha hb hlatch
  have hnowClock : s.nowMs ≤ s.clockUs := Nat.div_le_self s.clockUs 1000
  have hclock64 := toNat_ofNat_64 hclock
  have hnow : (nowMs64 (BitVec.ofNat 64 s.clockUs)).toNat = s.nowMs := nowMs64_toNat hclock
  have hinterval {last : Nat} (hlast : last ≤ s.nowMs) :
      intervalPassed64 Config.hardware (nowMs64 (BitVec.ofNat 64 s.clockUs)) (BitVec.ofNat 64 last) =
        intervalPassed Config.hardware s.nowMs last := by
    have hlast64 := toNat_ofNat_64 (n := last) (by omega)
    rw [intervalPassed64_eq (by decide) (by omega), hnow, hlast64]
  refine ⟨hnow, hinterval ha, hinterval hb,
    latchElapsed64_eq (by decide) hclock64 (toNat_ofNat_64 (by omega)) hlatch, fun imm himm => ?_⟩
  rw [tick64, BitVec.toNat_add, hclock64, BitVec.toNat_setWidth_of_le (by decide), Nat.mod_eq_of_lt himm]

end Sys2Proof.Machine
end

section
/-! One line of an assembler text (30_encoding.md rule R72): a comment is no part of it, and a mnemonic alone is its
event. -/

namespace Sys2Proof.Machine

/-- A text without a line feed is one line. -/
theorem splitLines_of_no_newline {text : List Char} (h : '\n' ∉ text) (line : List Char) :
    splitLines line text = [line.reverse ++ text] := by
  induction text generalizing line with
  | nil => simp [splitLines]
  | cons c text ih =>
    obtain ⟨hc, htext⟩ := List.ne_and_not_mem_of_not_mem_cons h
    rw [splitLines, if_neg hc.symm, ih htext]
    simp

/-- A text of one line assembles to the words of its events. -/
theorem assemble_of_no_newline (cfg : Config) {text : List Char} (h : '\n' ∉ text) :
    assemble cfg text = (parseLine cfg text).map (List.map encode) := by
  rw [assemble, splitLines_of_no_newline h, List.reverse_nil, List.nil_append, parseLines, parseLines]
  cases parseLine cfg text <;> simp

/-! Comments. -/

theorem takeWhile_append_cons_of_not {α : Type} {p : α → Bool} {b : α} (hb : p b = false) (as bs : List α) :
    (as ++ b :: bs).takeWhile p = as.takeWhile p := by
  induction as with
  | nil => simp [hb]
  | cons a as ih =>
    rw [List.cons_append, List.takeWhile_cons, List.takeWhile_cons, ih]

/-- The parts of a line end where its comment begins. -/
theorem lineParts_comment (line comment : List Char) : lineParts (line ++ ';' :: comment) = lineParts line := by
  rw [lineParts, takeWhile_append_cons_of_not (by decide), lineParts]

/-- Settles O59: both texts are one line, with the same parts. -/
theorem commentsAreIgnored : Obligations.CommentsAreIgnored := by
  intro cfg line comment hline hcomment
  have hwhole : '\n' ∉ line ++ ';' :: comment := by
    simpa [hline] using hcomment
  rw [assemble_of_no_newline cfg hwhole, assemble_of_no_newline cfg hline, parseLine, lineParts_comment, parseLine]

/-! Mnemonics. -/

/-- A run of non-blank characters goes into the part being read. -/
theorem splitParts_of_no_blank {cs : List Char} (h : ∀ c ∈ cs, isBlank c = false) (part : List Char) :
    splitParts part cs = splitParts (cs.reverse ++ part) [] := by
  induction cs generalizing part with
  | nil => rfl
  | cons c cs ih =>
    obtain ⟨hc, hcs⟩ := List.forall_mem_cons.mp h
    have hread : splitParts part (c :: cs) = splitParts (c :: part) cs := if_neg (Bool.eq_false_iff.mp hc)
    rw [hread, ih hcs]
    simp

/-- A word alone on a line, with no blank and no comment in it, is the line's one part. -/
theorem lineParts_of_one_part {part : List Char} (hne : part ≠ []) (hblank : ∀ c ∈ part, isBlank c = false)
    (hcomment : ';' ∉ part) : lineParts part = [part] := by
  have hkept : part.takeWhile (· ≠ ';') = part :=
    List.takeWhile_eq_self_iff.mpr fun c hc => decide_eq_true fun h => hcomment (h ▸ hc)
  rw [lineParts, hkept, splitParts_of_no_blank hblank, splitParts]
  simp [hne]

/-- A mnemonic is a non-empty word without blanks, comment signs and line feeds. -/
theorem mnemonic_is_part {i : Instr} (hi : i ∈ plainEvents) :
    (mnemonic i).toList ≠ [] ∧ (∀ c ∈ (mnemonic i).toList, isBlank c = false) ∧ ';' ∉ (mnemonic i).toList ∧
      '\n' ∉ (mnemonic i).toList := by
  simp only [plainEvents, List.mem_cons, List.not_mem_nil, or_false] at hi
  rcases hi with rfl | rfl | rfl | rfl | rfl | rfl <;> simp [mnemonic, isBlank]

theorem parseBare_mnemonic (cfg : Config) {i : Instr} (hi : i ∈ plainEvents) :
    parseBare cfg (mnemonic i).toList = some [i] := by
  simp only [plainEvents, List.mem_cons, List.not_mem_nil, or_false] at hi
  rcases hi with rfl | rfl | rfl | rfl | rfl | rfl <;> rfl

/-- Settles O58. -/
theorem mnemonicAssemblesToItsWord : Obligations.MnemonicAssemblesToItsWord := by
  intro cfg i hi
  obtain ⟨hne, hblank, hcomment, hnewline⟩ := mnemonic_is_part hi
  rw [assemble_of_no_newline cfg hnewline, parseLine, lineParts_of_one_part hne hblank hcomment]
  simp only [parseBare_mnemonic cfg hi, Option.map_some, List.map_cons, List.map_nil]

end Sys2Proof.Machine
end
